-- ==== Sys2Proof/Word.lean ====
section
/-! DEFINITION. The widths of the values the spec treats as bits (00_scope.md R6, R8): every value is unsigned,
bits are numbered from 0 at the least significant end. -/

namespace Sys2Proof

/-- A Bit Channel word: 8 bits (00_scope.md R6). -/
abbrev Byte := BitVec 8

/-- A program-memory word or word address, and a size field of a Chip Record: 16 bits (20_memory.md R51, 10_state.md R32). -/
abbrev Half := BitVec 16

/-- A signature: 24 bits (00_scope.md R6). -/
abbrev Sig := BitVec 24

/-- An ISP frame or a response, `{B0, B1, B2, B3}` with B0 in bits 31..24 (00_scope.md R8, 30_encoding.md R70). -/
abbrev Frame := BitVec 32

/-- A host request word (30_encoding.md R76). -/
abbrev HostWord := BitVec 40

end Sys2Proof
end

