-- ==== Sys2Proof/Syntax.lean ====
section
/-! DEFINITION. The whole syntax: the two bindings and four lines, the 23 instructions of opcode_table.json (sixteen
ISP frames, seven host operations), and the spec's own text lines (30_encoding.md R81, R82). -/

namespace Sys2Proof

/-- An interface binding; exactly two exist (10_state.md R21). In the host word SOCKET = 0 and BUS = 1 (30_encoding.md R76). -/
inductive Port where
  | socket
  | bus
deriving DecidableEq, Repr, Inhabited

/-- The other binding. -/
def Port.other : Port → Port
  | .socket => .bus
  | .bus => .socket

/-- The four logical lines (00_scope.md R10): reset, clock, data-out (to the target), data-in (from the target). -/
inductive Line where
  | rst
  | clk
  | dout
  | din
deriving DecidableEq, Repr, Inhabited

/-- One constructor per row of opcode_table.json. The first sixteen are the ISP frames (30_encoding.md R72), the last
seven the host operations (30_encoding.md R76). -/
inductive Instr where
  /-- PROG_EN (41_framer.md R123) -/
  | progEn
  /-- READ_SIG n (R124) -/
  | readSig (n : Byte)
  /-- READ_EE addr (R125) -/
  | readEe (addr : Byte)
  /-- WRITE_EE addr, value (R126) -/
  | writeEe (addr value : Byte)
  /-- READ_FUSE_LO (R127) -/
  | readFuseLo
  /-- READ_FUSE_EXT (R128) -/
  | readFuseExt
  /-- READ_FUSE_HI (R129) -/
  | readFuseHi
  /-- WRITE_FUSE_LO value (R130) -/
  | writeFuseLo (value : Byte)
  /-- WRITE_FUSE_HI value (R131) -/
  | writeFuseHi (value : Byte)
  /-- WRITE_FUSE_EXT value (R132) -/
  | writeFuseExt (value : Byte)
  /-- CHIP_ERASE (R133) -/
  | chipErase
  /-- READ_MEM_LO w (R134) -/
  | readMemLo (w : Half)
  /-- READ_MEM_HI w (R135) -/
  | readMemHi (w : Half)
  /-- LOAD_MEM_LO off, value (R136) -/
  | loadMemLo (off value : Byte)
  /-- LOAD_MEM_HI off, value (R137) -/
  | loadMemHi (off value : Byte)
  /-- WRITE_PAGE w (R138) -/
  | writePage (w : Half)
  /-- EXCHANGE out (40_bit_channel.md R100) -/
  | exchange (out : Byte)
  /-- TRANSACT frame (41_framer.md R120) -/
  | transact (frame : Frame)
  /-- FOCUS b (42_multiplexer.md R170) -/
  | focus (b : Port)
  /-- ENTER_PROG_MODE (R171) -/
  | enterProgMode
  /-- IDENTIFY b (43_identifier.md R190) -/
  | identify (b : Port)
  /-- READ_PARAMS b (R194) -/
  | readParams (b : Port)
  /-- WAIT_MS n (41_framer.md R140) -/
  | waitMs (n : BitVec 32)
deriving DecidableEq, Repr

/-- The frame part of a `transact` text line (30_encoding.md R81). Operands are numbers as written; the range check is
`TextFrame.wellFormed`. -/
inductive TextFrame where
  | frame (f : Nat)
  | progEn
  | readSig (n : Nat)
  | readEe (addr : Nat)
  | writeEe (addr value : Nat)
  | readFuseLo
  | readFuseExt
  | readFuseHi
  | writeFuseLo (value : Nat)
  | writeFuseHi (value : Nat)
  | writeFuseExt (value : Nat)
  | chipErase
  | readMemLo (w : Nat)
  | readMemHi (w : Nat)
  | loadMemLo (off value : Nat)
  | loadMemHi (off value : Nat)
  | writePage (w : Nat)
deriving DecidableEq, Repr

/-- A text line: one host operation (30_encoding.md R81) or one of the three pseudo-instructions (R82). -/
inductive TextLine where
  | exchange (out : Nat)
  | transact (f : TextFrame)
  | focus (b : Port)
  | enterProgMode
  | identify (b : Port)
  | readParams (b : Port)
  | waitMs (n : Nat)
  | readWord (w : Nat)
  | loadWord (off x : Nat)
  | reenter (b : Port)
deriving DecidableEq, Repr

end Sys2Proof
end

