-- ==== Sys2Proof/Config.lean ====
section
/-! DEFINITION. What is fixed for the machine: the binding table, the signature table, the parameters of 00_scope.md R7,
and the free values, which are constants with no body so that no proof can know them. -/

namespace Sys2Proof.Config

/-- A physical line `LINE(p, X)`; the spec names lines and gives no pin numbers (10_state.md R21, 92_eei_decisions.md D23). -/
structure PhysLine where
  port : Port
  line : Line
deriving DecidableEq, Repr

/-- BIND, the interface-binding table: `BIND[p][X] = LINE(p, X)` (10_state.md R21, R24). -/
def bind (p : Port) (x : Line) : PhysLine := ⟨p, x⟩

/-- Device Parameters (10_state.md R32). -/
structure DeviceParams where
  sig : Sig
  pageSize : Half
  pageCount : Half
  eepromSize : Half
deriving DecidableEq, Repr, Inhabited

/-- SIGTAB, the device-identification table: exactly two rows (10_state.md R22). -/
def sigTab : List DeviceParams :=
  [ ⟨0x0C931E, 32, 128, 256⟩,
    ⟨0x07921E, 32, 64, 256⟩ ]

/-- P_UNFOCUSED_LINES: what the lines of the port that is not focused do (00_scope.md R7, 10_state.md R26). -/
inductive UnfocusedLines where
  | hold
  | release
deriving DecidableEq, Repr, Inhabited

/-- The parameters of 00_scope.md R7 that a model "takes each as an argument"; ENV_DIN is `envDin` below. Times ending
in Us are microseconds, those ending in Ms milliseconds. -/
structure Params where
  tHalfUs : Nat
  tRstAUs : Nat
  tRstBUs : Nat
  tProgSettleUs : Nat
  settleEeWriteMs : Nat
  settleFuseWriteMs : Nat
  settleEraseMs : Nat
  settlePageWriteMs : Nat
  erasedByte : Byte
  unfocusedLines : UnfocusedLines
deriving DecidableEq, Repr

/-- T_RST_A, OPEN (00_scope.md R7, 92_eei_decisions.md D12): no value is given. -/
opaque openRstA : Nat

/-- T_RST_B, OPEN (00_scope.md R7, 92_eei_decisions.md D12): no value is given. -/
opaque openRstB : Nat

/-- T_PROG_SETTLE, OPEN (00_scope.md R7, 92_eei_decisions.md D12): no value is given. -/
opaque openProgSettle : Nat

/-- ERASED_BYTE, OPEN (00_scope.md R7, 92_eei_decisions.md D32): no value is given. -/
opaque openErasedByte : Byte

/-- P_UNFOCUSED_LINES, OPEN (00_scope.md R7, 92_eei_decisions.md D7): no value is given. -/
opaque openUnfocusedLines : UnfocusedLines

/-- The defaults of 00_scope.md R7; what it leaves OPEN is a constant without a body (log 9). -/
def Params.default : Params where
  tHalfUs := 4
  tRstAUs := openRstA
  tRstBUs := openRstB
  tProgSettleUs := openProgSettle
  settleEeWriteMs := 4
  settleFuseWriteMs := 5
  settleEraseMs := 10
  settlePageWriteMs := 5
  erasedByte := openErasedByte
  unfocusedLines := openUnfocusedLines

/-- ENV_DIN (00_scope.md R7, 10_state.md R39): the level on a port's data-in line at a free draw, by the number of the
draw. Nothing constrains it (log 6). -/
opaque envDin : Port → Nat → Bool

/-- The operation in OP (10_state.md R28): the seven of 30_encoding.md R76. -/
inductive HostOp where
  | exchange
  | transact
  | focus
  | enterProgMode
  | identify
  | readParams
  | waitMs
deriving DecidableEq, Repr, Inhabited

/-- The values of PHASE (10_state.md R28): the strobe steps of 42_multiplexer.md R171, then the steps of
43_identifier.md R190. -/
inductive Phase where
  | strobeLow
  | strobeIdle
  | strobeActive
  | settleWait
  | enable
  | focusing
  | entering
  | sig (n : Fin 3)
deriving DecidableEq, Repr, Inhabited

/-- Four byte registers, CMD[0..3] or RSP[0..3] (10_state.md R30). -/
structure ByteRegs where
  b0 : Byte
  b1 : Byte
  b2 : Byte
  b3 : Byte
deriving DecidableEq, Repr, Inhabited

/-- The registers that are unspecified between operations (10_state.md R28, R29, R30; 93_implementation_defined.md U20),
held together so that one free value stands for all of them. -/
structure Scratch where
  op : HostOp
  phase : Phase
  byteIdx : Fin 4
  bitIdx : Fin 8
  srOut : Byte
  srIn : Byte
  cmd : ByteRegs
  rsp : ByteRegs
deriving DecidableEq, Repr, Inhabited

/-- What OP, PHASE, BYTE_IDX, BIT_IDX, SR_OUT, SR_IN, CMD and RSP hold once an operation has ended: "any value; never
read" (93_implementation_defined.md U20). A free value, by the number of operations ended (log 5). -/
opaque idleScratch : Nat → Scratch

end Sys2Proof.Config
end

