-- ==== Sys2Proof/Machine/State.lean ====
section
/-! DEFINITION. The state of the block (10_state.md), as plain data: hardware state, the spec's model bookkeeping, and
the model's own fields (INVENTORY.md lists every one with its rule and its reset value). -/

namespace Sys2Proof.Machine

open Sys2Proof.Config (DeviceParams Params Scratch ByteRegs)

/-! ### Lines -/

/-- `DIR[p][X]` (10_state.md R25): `output` = OUT (the block drives the line), `input` = IN. -/
inductive Dir where
  | input
  | output
deriving DecidableEq, Repr, Inhabited

/-- `LVL[p][X]` (10_state.md R25): 0, 1, or U for unspecified; used only while the direction is OUT. -/
inductive Level where
  | low
  | high
  | unspecified
deriving DecidableEq, Repr, Inhabited

/-- One physical line: its direction and the level the block drives. -/
structure LineState where
  dir : Dir
  lvl : Level
deriving DecidableEq, Repr, Inhabited

/-- One entry of the line record (`State.wave`): the primitives of 00_scope.md R9, on physical lines. -/
inductive LineEvent where
  | drive (at_ : Config.PhysLine) (v : Level)
  | release (at_ : Config.PhysLine)
  | sample (p : Port) (v : Bool)
  | delayUs (n : Nat)
  | delayMs (n : Nat)
deriving DecidableEq, Repr

/-! ### Outcomes of an operation -/

/-- The status of RESULT (30_encoding.md R79). -/
inductive Status where
  | ok
  | absent
  | fault
deriving DecidableEq, Repr, Inhabited

/-- The fault codes of 60_exceptions.md R211. They are outcomes the block records in RESULT and FAULTS; the machine goes
on after each (R219). -/
inductive FaultCode where
  | badReq
  | noFocus
  | settle
  | misaligned
  | unlisted
  | notEnabled
  | unidentified
deriving DecidableEq, Repr, Inhabited

/-- The result value, whose shape depends on the operation (30_encoding.md R76). -/
inductive Value where
  | none
  | byte (v : Byte)
  | frame (v : Frame)
  | params (v : DeviceParams)
deriving DecidableEq, Repr, Inhabited

/-- RESULT (10_state.md R31, 30_encoding.md R79); `code = none` is the code 0. -/
structure Result where
  status : Status
  code : Option FaultCode
  value : Value
deriving DecidableEq, Repr, Inhabited

/-! ### What is attached to a port -/

/-- A target memory: (address, byte) cells, addresses strictly rising, no cell equal to what an unlisted address reads
as (`Memory.blank`). -/
abbrev Memory := List Host.Cell

/-- The modes of the reference target (95_test_vectors.md TM2). -/
inductive TargetMode where
  | off
  | sync
  | prog
deriving DecidableEq, Repr, Inhabited

/-- The reference target model of 95_test_vectors.md section 1, informative (92_eei_decisions.md D25; log 8). `bit` counts
the bits of the byte being received, `rx` holds them, `tx` is the byte being answered (`none` where each of its bits is a free
draw); `b0`, `b1`, `b2` are the bytes of the
frame so far, and `cnt` how many. PMEM and PAGEBUF hold word w at byte addresses 2w (low) and 2w + 1 (high). -/
structure Target where
  mode : TargetMode
  cnt : Fin 4
  bit : Fin 8
  rx : Byte
  tx : Option Byte
  latch : Bool
  b0 : Byte
  b1 : Byte
  b2 : Byte
  sig0 : Byte
  sig1 : Byte
  sig2 : Byte
  pageSize : Nat
  pageCount : Nat
  pmem : Memory
  pageBuf : Memory
  ee : Memory
  fuseLo : Byte
  fuseHi : Byte
  fuseExt : Byte
deriving DecidableEq, Repr

/-- What sets the level of a port's data-in line. `env` is ENV_DIN (00_scope.md R7): the levels the environment will show
at the next samples where a claim names them, and free draws after those. The others are environments a claim may name
(10_state.md R39): a stuck line (40_bit_channel.md R103; an absent target is `stuck true`, TM1), DIN tied to DOUT (R106),
and the reference target. -/
inductive Attached where
  | env (next : List Bool)
  | stuck (v : Bool)
  | loop
  | chip (t : Target)
deriving DecidableEq, Repr

/-! ### State -/

/-- `PORT_MODE[p]` (10_state.md R35). -/
inductive PortMode where
  | unknown
  | idle
  | resetActive
  | enableSent
deriving DecidableEq, Repr, Inhabited

/-- What the machine holds for one port p. -/
structure PortState where
  /-- DIR and LVL of `LINE(p, RST)` (10_state.md R25) -/
  rst : LineState
  /-- DIR and LVL of `LINE(p, CLK)` -/
  clk : LineState
  /-- DIR and LVL of `LINE(p, DOUT)` -/
  dout : LineState
  /-- DIR and LVL of `LINE(p, DIN)` -/
  din : LineState
  /-- CHIP[p], the Chip Record's Device Parameters (10_state.md R32) -/
  chip : DeviceParams
  /-- WRITTEN[p] (10_state.md R34) -/
  written : Bool
  /-- PORT_MODE[p] (10_state.md R35) -/
  mode : PortMode
  /-- FRAME_PHASE[p] (10_state.md R36) -/
  framePhase : Fin 4
  /-- SETTLE[p], ms (10_state.md R37) -/
  settle : Nat
  /-- the model's own: what is on the port's DIN line -/
  attached : Attached
deriving DecidableEq, Repr

/-- The state of the machine. -/
structure State where
  /-- FOCUS (10_state.md R23); `none` is NONE -/
  focus : Option Port
  socket : PortState
  bus : PortState
  /-- BUSY (10_state.md R28) -/
  busy : Bool
  /-- OP, PHASE, BYTE_IDX, BIT_IDX, SR_OUT, SR_IN, CMD, RSP (10_state.md R28 to R30) -/
  scratch : Scratch
  /-- RESULT (10_state.md R31) -/
  result : Result
  /-- FAULTS (10_state.md R38): a set, as a list in rising code order without repeats -/
  faults : List FaultCode
  /-- the model's own: the parameters of 00_scope.md R7; no step writes them -/
  params : Params
  /-- the model's own: the words the host will present, next first (30_encoding.md R77; log 1) -/
  requests : List HostWord
  /-- the model's own: for each coming step, next first, whether the environment resets the block in it, and after how many
  line actions of the operation performed there; beyond the list none (20_memory.md R56, 70_reset_and_hazards.md R231; log 24) -/
  resets : List (Option Nat)
  /-- the model's own: the number of the next free DIN draw (log 6) -/
  draws : Nat
  /-- the model's own: the number of the next free value of the idle registers (log 5) -/
  free : Nat
  /-- the model's own: the line actions and delays of the last operation, newest first (log 10) -/
  wave : List LineEvent
deriving DecidableEq, Repr

/-- Why the machine itself stops. The block's own faults are no stops: they are next states (60_exceptions.md R219). -/
inductive Fault where
  /-- raised by `step` alone, where a word is presented while BUSY = 1: a host duty with no move in the model
  (30_encoding.md R77, 70_reset_and_hazards.md R238). Safe: the machine stops, and no run from reset meets it. -/
  | requestWhileBusy
deriving DecidableEq, Repr

/-- Why an instruction has no meaning. -/
inductive Refusal where
  /-- raised by `exec` for an instruction without a meaning yet; no arm raises it now. Safe: the machine stops. -/
  | notModelled (mnemonic : String)
deriving DecidableEq, Repr

/-! ### Reset -/

/-- An undriven line (10_state.md R25): IN, and its level unspecified. -/
def LineState.undriven : LineState := ⟨.input, .unspecified⟩

/-- A port right after reset (10_state.md section 9, 70_reset_and_hazards.md R230). CHIP is unspecified there: DESIGN CHOICE
all zero (log 4). What is attached is the free environment: DESIGN CHOICE (log 6). -/
def PortState.reset : PortState where
  rst := .undriven
  clk := .undriven
  dout := .undriven
  din := .undriven
  chip := ⟨0, 0, 0, 0⟩
  written := false
  mode := .unknown
  framePhase := 0
  settle := 0
  attached := .env []

/-- The unspecified registers at reset: DESIGN CHOICE, all zero or the first name (log 4). -/
def scratchReset : Scratch where
  op := .exchange
  phase := .strobeLow
  byteIdx := 0
  bitIdx := 0
  srOut := 0
  srIn := 0
  cmd := ⟨0, 0, 0, 0⟩
  rsp := ⟨0, 0, 0, 0⟩

/-- The machine right after reset (70_reset_and_hazards.md R230). RESULT is unspecified there: DESIGN CHOICE status OK, no
code, no value (log 4). -/
def State.reset : State where
  focus := none
  socket := .reset
  bus := .reset
  busy := false
  scratch := scratchReset
  result := ⟨.ok, none, .none⟩
  faults := []
  params := Params.default
  requests := []
  resets := []
  draws := 0
  free := 0
  wave := []

end Sys2Proof.Machine
end

