-- ==== Sys2Proof/Machine/Flags.lean ====
section
/-! DEFINITION. The block's only status flags, RESULT and FAULTS (10_state.md R31, R38), with their codes and order, and
the two conditions a command's row decides: the PORT_MODE it needs and the settle it owes. -/

namespace Sys2Proof.Machine

open Sys2Proof.Config (DeviceParams Params)

/-! ### Codes -/

/-- The number of a fault code (60_exceptions.md R211). -/
def FaultCode.number : FaultCode → Nat
  | .badReq => 1
  | .noFocus => 2
  | .settle => 3
  | .misaligned => 4
  | .unlisted => 5
  | .notEnabled => 6
  | .unidentified => 7

/-- The number of a status: OK = 0, ABSENT = 1, FAULT = 2 (30_encoding.md R79). -/
def Status.number : Status → Nat
  | .ok => 0
  | .absent => 1
  | .fault => 2

/-- "`code` is 0 unless status = FAULT" (30_encoding.md R79). -/
def Result.codeNumber (r : Result) : Nat :=
  match r.code with
  | none => 0
  | some c => c.number

/-! ### RESULT -/

/-- Status OK with a value. -/
def Result.done (v : Value) : Result := ⟨.ok, none, v⟩

/-- Status ABSENT, "with no value" (43_identifier.md R190, 60_exceptions.md R210). -/
def Result.missing : Result := ⟨.absent, none, .none⟩

/-- `(FAULT, code, none)` (60_exceptions.md R219). -/
def Result.failed (c : FaultCode) : Result := ⟨.fault, some c, .none⟩

/-! ### FAULTS -/

/-- Add a code to the set FAULTS, kept in rising code order without repeats (10_state.md R38, 60_exceptions.md R217). -/
def addFault (c : FaultCode) : List FaultCode → List FaultCode
  | [] => [c]
  | d :: ds =>
    if c.number < d.number then c :: d :: ds
    else if c = d then d :: ds
    else d :: addFault c ds

/-- The form FAULTS is kept in: codes rise strictly. -/
abbrev faultsWf (l : List FaultCode) : Prop := l.Pairwise (fun a b => a.number < b.number)

/-- The first fault of a list of checks, in the order they stand: the priority of 60_exceptions.md R218. -/
def firstFault : List (Bool × FaultCode) → Option FaultCode
  | [] => none
  | (applies, c) :: rest => if applies then some c else firstFault rest

/-! ### What a command's row decides -/

/-- `MODE_OK(c, m)` (41_framer.md R122). -/
def modeOk (c : Instr) (m : PortMode) : Bool :=
  if c = .progEn then m == .resetActive || m == .enableSent else m == .enableSent

/-- `SETTLE_OF(c)`, ms (41_framer.md R141). A host operation is no command and owes none. -/
def settleOf (k : Params) : Instr → Nat
  | .writeEe _ _ => k.settleEeWriteMs
  | .writeFuseLo _ | .writeFuseHi _ | .writeFuseExt _ => k.settleFuseWriteMs
  | .chipErase => k.settleEraseMs
  | .writePage _ => k.settlePageWriteMs
  | .progEn | .readSig _ | .readEe _ | .readFuseLo | .readFuseExt | .readFuseHi | .readMemLo _ | .readMemHi _
  | .loadMemLo _ _ | .loadMemHi _ _ => 0
  | .exchange _ | .transact _ | .focus _ | .enterProgMode | .identify _ | .readParams _ | .waitMs _ => 0

end Sys2Proof.Machine
end

