-- ==== Sys2Proof/WellFormed.lean ====
section
/-! DEFINITION. What a well-formed instruction and a well-formed text line are. An `Instr` carries each operand in a
type of exactly the operand's range (30_encoding.md R72, R76), so the only check left for it is which word layer it
belongs to; a text line carries numbers as written, and R81 refuses those out of range. -/

namespace Sys2Proof

/-- The instruction is one of the sixteen ISP frames (30_encoding.md R72). -/
def Instr.isFrame : Instr → Bool
  | .progEn | .readSig _ | .readEe _ | .writeEe _ _ | .readFuseLo | .readFuseExt | .readFuseHi
  | .writeFuseLo _ | .writeFuseHi _ | .writeFuseExt _ | .chipErase | .readMemLo _ | .readMemHi _
  | .loadMemLo _ _ | .loadMemHi _ _ | .writePage _ => true
  | .exchange _ | .transact _ | .focus _ | .enterProgMode | .identify _ | .readParams _ | .waitMs _ => false

/-- The instruction is one of the seven host operations (30_encoding.md R76). -/
def Instr.isHostOp (i : Instr) : Bool := !i.isFrame

/-- The number of bits opcode_table.json gives the instruction's row: 32 for a frame, 40 for a host word (30_encoding.md R80). -/
def Instr.bits (i : Instr) : Nat := if i.isFrame then 32 else 40

/-- An operand written as a byte is in 0..255 (30_encoding.md R81). -/
def isByte (n : Nat) : Bool := n < 2 ^ 8

/-- A word address or word value is in 0..65535 (30_encoding.md R81). -/
def isHalf (n : Nat) : Bool := n < 2 ^ 16

/-- A frame or a ms count fits in 32 bits (30_encoding.md R76, R81). -/
def isWord32 (n : Nat) : Bool := n < 2 ^ 32

/-- "Operands n, addr, off and v must be in 0..255, and w in 0..65535" (30_encoding.md R81). -/
def TextFrame.wellFormed : TextFrame → Bool
  | .frame f => isWord32 f
  | .readSig n => isByte n
  | .readEe a => isByte a
  | .writeEe a v => isByte a && isByte v
  | .writeFuseLo v | .writeFuseHi v | .writeFuseExt v => isByte v
  | .readMemLo w | .readMemHi w | .writePage w => isHalf w
  | .loadMemLo o v | .loadMemHi o v => isByte o && isByte v
  | .progEn | .readFuseLo | .readFuseExt | .readFuseHi | .chipErase => true

/-- "any other value is refused by the text reader, never wrapped" (30_encoding.md R81, R82). -/
def TextLine.wellFormed : TextLine → Bool
  | .exchange o => isByte o
  | .transact f => f.wellFormed
  | .waitMs n => isWord32 n
  | .readWord w => isHalf w
  | .loadWord o x => isByte o && isHalf x
  | .focus _ | .enterProgMode | .identify _ | .readParams _ | .reenter _ => true

end Sys2Proof
end

