-- ==== Sys2Proof/Decode.lean ====
section
/-! DEFINITION. The two decoders, total on every word and refusing by name: host words (30_encoding.md R76, R78) and ISP
frames (R72, R75). After them the encoder, written from the same tables, and the mask-and-match rows of
opcode_table.json. -/

namespace Sys2Proof

/-- Why a word is not an instruction. -/
inductive DecodeError where
  /-- `op` is 0x0 or 0x8..0xF (30_encoding.md R78). -/
  | reservedOp
  /-- `rsv ≠ 0` (R78). -/
  | reservedBits
  /-- `b = 1` on an operation whose b "must be 0" (R78). -/
  | bindingNotZero
  /-- A D field that "must be 0" is not (R78). -/
  | dataNotZero
  /-- The frame matches no row of R72 (R75). -/
  | unlistedFrame
deriving DecidableEq, Repr

/-! ### Fields -/

/-- The frame `{B0, B1, B2, B3}` (00_scope.md R8). -/
def packFrame (b0 b1 b2 b3 : Byte) : Frame := b0 ++ b1 ++ b2 ++ b3

/-- B0, bits 31..24 of a frame (R0 of a response). -/
def frameB0 (f : Frame) : Byte := f.extractLsb' 24 8

/-- B1, bits 23..16 of a frame. -/
def frameB1 (f : Frame) : Byte := f.extractLsb' 16 8

/-- B2, bits 15..8 of a frame. -/
def frameB2 (f : Frame) : Byte := f.extractLsb' 8 8

/-- B3, bits 7..0 of a frame. -/
def frameB3 (f : Frame) : Byte := f.extractLsb' 0 8

/-- `addrHi = w[15:8]` (30_encoding.md R74). -/
def addrHi (w : Half) : Byte := w.extractLsb' 8 8

/-- `addrLo = w[7:0]` (30_encoding.md R74). -/
def addrLo (w : Half) : Byte := w.extractLsb' 0 8

/-- The 16-bit word address `{addrHi, addrLo}`, big-endian in the frame (20_memory.md R51, R54). -/
def wordAddr (hi lo : Byte) : Half := hi ++ lo

/-- The host word `{D[31:0], rsv[2:0] = 0, b, op[3:0]}` (30_encoding.md R76). -/
def packHost (op : BitVec 4) (b : Bool) (d : BitVec 32) : HostWord :=
  d ++ (0 : BitVec 3) ++ BitVec.ofBool b ++ op

/-- `op = W[3:0]`. -/
def hostOp (w : HostWord) : BitVec 4 := w.extractLsb' 0 4

/-- `b = W[4]`. -/
def hostB (w : HostWord) : Bool := w.getLsbD 4

/-- `rsv = W[7:5]`. -/
def hostRsv (w : HostWord) : BitVec 3 := w.extractLsb' 5 3

/-- `D = W[39:8]`. -/
def hostD (w : HostWord) : BitVec 32 := w.extractLsb' 8 32

/-- `b` names a binding: 0 = SOCKET, 1 = BUS (30_encoding.md R76). -/
def portOfBit (b : Bool) : Port := if b then .bus else .socket

/-- The bit of a binding in the host word. -/
def bitOfPort : Port → Bool
  | .socket => false
  | .bus => true

/-! ### Decoding -/

/-- The row of 30_encoding.md R72 a frame matches; "A listed opcode whose fixed 0x00 byte is not zero" matches none (R75).
This is CLASSIFY of 41_framer.md R120. -/
def decodeFrame (f : Frame) : Except DecodeError Instr :=
  if frameB0 f = 0xAC then
    if frameB1 f = 0x53 then
      if frameB2 f = 0 ∧ frameB3 f = 0 then .ok .progEn else .error .unlistedFrame
    else if frameB1 f = 0x80 then
      if frameB2 f = 0 ∧ frameB3 f = 0 then .ok .chipErase else .error .unlistedFrame
    else if frameB1 f = 0xA0 then
      if frameB2 f = 0 then .ok (.writeFuseLo (frameB3 f)) else .error .unlistedFrame
    else if frameB1 f = 0xA8 then
      if frameB2 f = 0 then .ok (.writeFuseHi (frameB3 f)) else .error .unlistedFrame
    else if frameB1 f = 0xA4 then
      if frameB2 f = 0 then .ok (.writeFuseExt (frameB3 f)) else .error .unlistedFrame
    else .error .unlistedFrame
  else if frameB0 f = 0x30 then
    if frameB1 f = 0 ∧ frameB3 f = 0 then .ok (.readSig (frameB2 f)) else .error .unlistedFrame
  else if frameB0 f = 0xA0 then
    if frameB1 f = 0 ∧ frameB3 f = 0 then .ok (.readEe (frameB2 f)) else .error .unlistedFrame
  else if frameB0 f = 0xC0 then
    if frameB1 f = 0 then .ok (.writeEe (frameB2 f) (frameB3 f)) else .error .unlistedFrame
  else if frameB0 f = 0x50 then
    if frameB1 f = 0 ∧ frameB2 f = 0 ∧ frameB3 f = 0 then .ok .readFuseLo
    else if frameB1 f = 0x08 ∧ frameB2 f = 0 ∧ frameB3 f = 0 then .ok .readFuseExt
    else .error .unlistedFrame
  else if frameB0 f = 0x58 then
    if frameB1 f = 0x08 ∧ frameB2 f = 0 ∧ frameB3 f = 0 then .ok .readFuseHi else .error .unlistedFrame
  else if frameB0 f = 0x20 then
    if frameB3 f = 0 then .ok (.readMemLo (wordAddr (frameB1 f) (frameB2 f))) else .error .unlistedFrame
  else if frameB0 f = 0x28 then
    if frameB3 f = 0 then .ok (.readMemHi (wordAddr (frameB1 f) (frameB2 f))) else .error .unlistedFrame
  else if frameB0 f = 0x40 then
    if frameB1 f = 0 then .ok (.loadMemLo (frameB2 f) (frameB3 f)) else .error .unlistedFrame
  else if frameB0 f = 0x48 then
    if frameB1 f = 0 then .ok (.loadMemHi (frameB2 f) (frameB3 f)) else .error .unlistedFrame
  else if frameB0 f = 0x4C then
    if frameB3 f = 0 then .ok (.writePage (wordAddr (frameB1 f) (frameB2 f))) else .error .unlistedFrame
  else .error .unlistedFrame

/-- The host operation a request word names, or why it is reserved (30_encoding.md R76, R78). -/
def decodeHost (w : HostWord) : Except DecodeError Instr :=
  if hostRsv w ≠ 0 then .error .reservedBits
  else if hostOp w = 1 then
    if hostB w then .error .bindingNotZero
    else if (hostD w).extractLsb' 8 24 ≠ 0 then .error .dataNotZero
    else .ok (.exchange ((hostD w).extractLsb' 0 8))
  else if hostOp w = 2 then
    if hostB w then .error .bindingNotZero else .ok (.transact (hostD w))
  else if hostOp w = 3 then
    if hostD w ≠ 0 then .error .dataNotZero else .ok (.focus (portOfBit (hostB w)))
  else if hostOp w = 4 then
    if hostB w then .error .bindingNotZero
    else if hostD w ≠ 0 then .error .dataNotZero
    else .ok .enterProgMode
  else if hostOp w = 5 then
    if hostD w ≠ 0 then .error .dataNotZero else .ok (.identify (portOfBit (hostB w)))
  else if hostOp w = 6 then
    if hostD w ≠ 0 then .error .dataNotZero else .ok (.readParams (portOfBit (hostB w)))
  else if hostOp w = 7 then
    if hostB w then .error .bindingNotZero else .ok (.waitMs (hostD w))
  else .error .reservedOp

/-- The instruction the decoder reads from a word numbered as opcode_table.json numbers it: an ISP frame in 32 bits, a
host word in 40. -/
def decodeTableWord (nbits w : Nat) : Option Instr :=
  if nbits = 32 ∧ w < 2 ^ 32 then (decodeFrame (BitVec.ofNat 32 w)).toOption
  else if nbits = 40 ∧ w < 2 ^ 40 then (decodeHost (BitVec.ofNat 40 w)).toOption
  else none

/-! ### Encoding -/

/-- The frame of an ISP frame instruction (30_encoding.md R72, R74); a host operation is no frame. -/
def frameOf : Instr → Option Frame
  | .progEn => some (packFrame 0xAC 0x53 0x00 0x00)
  | .readSig n => some (packFrame 0x30 0x00 n 0x00)
  | .readEe a => some (packFrame 0xA0 0x00 a 0x00)
  | .writeEe a v => some (packFrame 0xC0 0x00 a v)
  | .readFuseLo => some (packFrame 0x50 0x00 0x00 0x00)
  | .readFuseExt => some (packFrame 0x50 0x08 0x00 0x00)
  | .readFuseHi => some (packFrame 0x58 0x08 0x00 0x00)
  | .writeFuseLo v => some (packFrame 0xAC 0xA0 0x00 v)
  | .writeFuseHi v => some (packFrame 0xAC 0xA8 0x00 v)
  | .writeFuseExt v => some (packFrame 0xAC 0xA4 0x00 v)
  | .chipErase => some (packFrame 0xAC 0x80 0x00 0x00)
  | .readMemLo w => some (packFrame 0x20 (addrHi w) (addrLo w) 0x00)
  | .readMemHi w => some (packFrame 0x28 (addrHi w) (addrLo w) 0x00)
  | .loadMemLo o v => some (packFrame 0x40 0x00 o v)
  | .loadMemHi o v => some (packFrame 0x48 0x00 o v)
  | .writePage w => some (packFrame 0x4C (addrHi w) (addrLo w) 0x00)
  | .exchange _ | .transact _ | .focus _ | .enterProgMode | .identify _ | .readParams _ | .waitMs _ => none

/-- The host word that carries a frame to the block: TRANSACT of it (30_encoding.md R76). -/
def transactWord (f : Frame) : HostWord := packHost 2 false f

/-- The host word of a host operation (30_encoding.md R76). An ISP frame is no host operation and has none: the reserved
word 0 stands there, and `encode` does not use it. -/
def hostOpWord : Instr → HostWord
  | .exchange o => packHost 1 false (o.setWidth 32)
  | .transact f => transactWord f
  | .focus b => packHost 3 (bitOfPort b) 0
  | .enterProgMode => packHost 4 false 0
  | .identify b => packHost 5 (bitOfPort b) 0
  | .readParams b => packHost 6 (bitOfPort b) 0
  | .waitMs n => packHost 7 false n
  | .progEn | .readSig _ | .readEe _ | .writeEe _ _ | .readFuseLo | .readFuseExt | .readFuseHi
  | .writeFuseLo _ | .writeFuseHi _ | .writeFuseExt _ | .chipErase | .readMemLo _ | .readMemHi _
  | .loadMemLo _ _ | .loadMemHi _ _ | .writePage _ => 0

/-- The host word by which an instruction reaches the block: of an ISP frame the TRANSACT of it, of a host operation its
own. -/
def encode (i : Instr) : HostWord :=
  match frameOf i with
  | some f => transactWord f
  | none => hostOpWord i

/-- The word of an instruction's own row of opcode_table.json: the frame of an ISP frame, else the host word. -/
def encodeTableWord (i : Instr) : Nat :=
  match frameOf i with
  | some f => f.toNat
  | none => (encode i).toNat

/-! ### The table's rows -/

/-- One row of opcode_table.json: `width` bits, of which those of `mask` are fixed at those of `val`. -/
structure TableRow where
  mnemonic : String
  width : Nat
  val : Nat
  mask : Nat
deriving DecidableEq, Repr

/-- A word matches a row. -/
def TableRow.matches (r : TableRow) (w : Nat) : Bool := w &&& r.mask == r.val

/-- The sixteen frame rows of opcode_table.json, in its order. -/
def frameRows : List TableRow :=
  [ ⟨"PROG_EN", 32, 0xAC530000, 0xFFFFFFFF⟩,
    ⟨"READ_SIG", 32, 0x30000000, 0xFFFF00FF⟩,
    ⟨"READ_EE", 32, 0xA0000000, 0xFFFF00FF⟩,
    ⟨"WRITE_EE", 32, 0xC0000000, 0xFFFF0000⟩,
    ⟨"READ_FUSE_LO", 32, 0x50000000, 0xFFFFFFFF⟩,
    ⟨"READ_FUSE_EXT", 32, 0x50080000, 0xFFFFFFFF⟩,
    ⟨"READ_FUSE_HI", 32, 0x58080000, 0xFFFFFFFF⟩,
    ⟨"WRITE_FUSE_LO", 32, 0xACA00000, 0xFFFFFF00⟩ ] ++
  [ ⟨"WRITE_FUSE_HI", 32, 0xACA80000, 0xFFFFFF00⟩,
    ⟨"WRITE_FUSE_EXT", 32, 0xACA40000, 0xFFFFFF00⟩,
    ⟨"CHIP_ERASE", 32, 0xAC800000, 0xFFFFFFFF⟩,
    ⟨"READ_MEM_LO", 32, 0x20000000, 0xFF0000FF⟩,
    ⟨"READ_MEM_HI", 32, 0x28000000, 0xFF0000FF⟩,
    ⟨"LOAD_MEM_LO", 32, 0x40000000, 0xFFFF0000⟩,
    ⟨"LOAD_MEM_HI", 32, 0x48000000, 0xFFFF0000⟩,
    ⟨"WRITE_PAGE", 32, 0x4C000000, 0xFF0000FF⟩ ]

/-- The seven host rows of opcode_table.json, in its order. -/
def hostRows : List TableRow :=
  [ ⟨"EXCHANGE", 40, 0x0000000001, 0xFFFFFF00FF⟩,
    ⟨"TRANSACT", 40, 0x0000000002, 0x00000000FF⟩,
    ⟨"FOCUS", 40, 0x0000000003, 0xFFFFFFFFEF⟩,
    ⟨"ENTER_PROG_MODE", 40, 0x0000000004, 0xFFFFFFFFFF⟩,
    ⟨"IDENTIFY", 40, 0x0000000005, 0xFFFFFFFFEF⟩,
    ⟨"READ_PARAMS", 40, 0x0000000006, 0xFFFFFFFFEF⟩,
    ⟨"WAIT_MS", 40, 0x0000000007, 0x00000000FF⟩ ]

/-- An instruction's mnemonic in opcode_table.json. -/
def Instr.mnemonic : Instr → String
  | .progEn => "PROG_EN"
  | .readSig _ => "READ_SIG"
  | .readEe _ => "READ_EE"
  | .writeEe _ _ => "WRITE_EE"
  | .readFuseLo => "READ_FUSE_LO"
  | .readFuseExt => "READ_FUSE_EXT"
  | .readFuseHi => "READ_FUSE_HI"
  | .writeFuseLo _ => "WRITE_FUSE_LO"
  | .writeFuseHi _ => "WRITE_FUSE_HI"
  | .writeFuseExt _ => "WRITE_FUSE_EXT"
  | .chipErase => "CHIP_ERASE"
  | .readMemLo _ => "READ_MEM_LO"
  | .readMemHi _ => "READ_MEM_HI"
  | .loadMemLo _ _ => "LOAD_MEM_LO"
  | .loadMemHi _ _ => "LOAD_MEM_HI"
  | .writePage _ => "WRITE_PAGE"
  | .exchange _ => "EXCHANGE"
  | .transact _ => "TRANSACT"
  | .focus _ => "FOCUS"
  | .enterProgMode => "ENTER_PROG_MODE"
  | .identify _ => "IDENTIFY"
  | .readParams _ => "READ_PARAMS"
  | .waitMs _ => "WAIT_MS"

end Sys2Proof
end

