-- ==== Sys2Proof/Machine/Operands.lean ====
section
/-! DEFINITION. How operands and results are taken apart and put together: single bits, the byte registers CMD and RSP,
the response byte of a command, and the signature. Nothing is sign-extended, scaled or wrapped (30_encoding.md R74). -/

namespace Sys2Proof.Machine

open Sys2Proof.Config (DeviceParams ByteRegs)

/-- The level of a bit. -/
def levelOf (b : Bool) : Level := if b then .high else .low

/-- The value a level shows; U shows `free`, a level nothing names. -/
def Level.resolve (free : Bool) : Level → Bool
  | .low => false
  | .high => true
  | .unspecified => free

/-- `v[i] <- b` (00_scope.md R8). -/
def putBit (v : Byte) (i : Fin 8) (b : Bool) : Byte :=
  if b then v ||| BitVec.twoPow 8 i.val else v &&& ~~~(BitVec.twoPow 8 i.val)

/-- Shift a bit in at the least significant end. -/
def shiftIn (v : Byte) (b : Bool) : Byte := v <<< 1 ||| (if b then 1 else 0)

/-- The byte whose bits are, in time order, s0 first and so bit 7 (40_bit_channel.md R103). -/
def byteOfSamples (l : List Bool) : Byte := l.foldl shiftIn 0

/-- The bits of a byte in the order they go on the wire: bit 7 first (20_memory.md R53). -/
def wireBits (v : Byte) : List Bool := (List.range 8).map (fun k => v.getLsbD (7 - k))

/-- The bits of a frame in the order they go on the wire: B0 first (20_memory.md R53). -/
def frameBits (f : Frame) : List Bool :=
  wireBits (frameB0 f) ++ wireBits (frameB1 f) ++ wireBits (frameB2 f) ++ wireBits (frameB3 f)

/-- CMD[k] or RSP[k]. -/
def regAt (r : ByteRegs) : Fin 4 → Byte
  | 0 => r.b0
  | 1 => r.b1
  | 2 => r.b2
  | 3 => r.b3

/-- `RSP[k] <- v`. -/
def putReg (r : ByteRegs) (k : Fin 4) (v : Byte) : ByteRegs :=
  match k with
  | 0 => { r with b0 := v }
  | 1 => { r with b1 := v }
  | 2 => { r with b2 := v }
  | 3 => { r with b3 := v }

/-- `for k = 0 to 3: CMD[k] <- frame[31-8k : 24-8k]` (41_framer.md R120). -/
def regsOfFrame (f : Frame) : ByteRegs := ⟨frameB0 f, frameB1 f, frameB2 f, frameB3 f⟩

/-- `{RSP[0], RSP[1], RSP[2], RSP[3]}` (41_framer.md R120). -/
def frameOfRegs (r : ByteRegs) : Frame := packFrame r.b0 r.b1 r.b2 r.b3

/-- `RESP(c, {R0..R3})` (41_framer.md R121, 30_encoding.md R73): R2 for PROG_EN, R3 for every read, else none. -/
def response (c : Instr) (r : Frame) : Option Byte :=
  match c with
  | .progEn => some (frameB2 r)
  | .readSig _ | .readEe _ | .readFuseLo | .readFuseExt | .readFuseHi | .readMemLo _ | .readMemHi _ => some (frameB3 r)
  | .writeEe _ _ | .writeFuseLo _ | .writeFuseHi _ | .writeFuseExt _ | .chipErase | .loadMemLo _ _ | .loadMemHi _ _
  | .writePage _ => none
  | .exchange _ | .transact _ | .focus _ | .enterProgMode | .identify _ | .readParams _ | .waitMs _ => none

/-- `sig = {S2, S1, S0}` (43_identifier.md R191, 20_memory.md R54): byte 0 least significant. -/
def assembleSig (s0 s1 s2 : Byte) : Sig := s2 ++ s1 ++ s0

end Sys2Proof.Machine
end

