-- ==== Sys2Proof/Machine/Target.lean ====
section
/-! DEFINITION. The reference target model of 95_test_vectors.md section 1 (TM1 to TM7), one of the environments a claim may
attach to a port (10_state.md R39). It is informative and no part of the block (92_eei_decisions.md D25): the block reads it
through DIN alone. It follows the response contracts of 41_framer.md R123 to R138. -/

namespace Sys2Proof.Machine

/-! ### Target memories -/

/-- What an unlisted byte of a target memory reads as: 0xFF (TM6). -/
def Memory.blank : Byte := 0xFF

/-- The canonical form: addresses rise strictly and no cell holds what an unlisted address reads as. -/
abbrev Memory.wf (m : Memory) : Prop :=
  m.Pairwise (fun a b => a.1 < b.1) ∧ ∀ c ∈ m, c.2 ≠ Memory.blank

/-- Read one byte. -/
def Memory.read : Memory → Nat → Byte
  | [], _ => Memory.blank
  | (k, v) :: rest, a => if k = a then v else Memory.read rest a

/-- Put a byte in front of the cells above it, or leave it out where it is blank. -/
def Memory.cons (a : Nat) (v : Byte) (rest : Memory) : Memory :=
  if v = Memory.blank then rest else (a, v) :: rest

/-- Write one byte, keeping the canonical form. -/
def Memory.write : Memory → Nat → Byte → Memory
  | [], a, v => Memory.cons a v []
  | (k, w) :: rest, a, v =>
    if a < k then Memory.cons a v ((k, w) :: rest)
    else if a = k then Memory.cons a v rest
    else (k, w) :: Memory.write rest a v

/-- The memory whose first `n` bytes are all `v`. -/
def Memory.fill (n : Nat) (v : Byte) : Memory :=
  if v = Memory.blank then [] else (List.range n).map (fun a => (a, v))

/-- `dst` with `n` bytes from `to_` on taken from `src` from `from_` on. -/
def Memory.copy (src : Memory) (from_ to_ : Nat) (dst : Memory) : Nat → Memory
  | 0 => dst
  | n + 1 => Memory.write (Memory.copy src from_ to_ dst n) (to_ + n) (Memory.read src (from_ + n))

/-! ### The target -/

/-- The size of PMEM in words: pageCount × pageSize. -/
def Target.words (t : Target) : Nat := t.pageCount * t.pageSize

/-- The byte of PMEM at byte address `a`; "A w beyond the memory gives 0xFF" (TM5). -/
def Target.pmemByte (t : Target) (a : Nat) : Byte :=
  if a < 2 * t.words then Memory.read t.pmem a else Memory.blank

/-- What a frame in PROG answers in R3: the byte B2 again, a byte of the target, or a draw. -/
inductive TargetAnswer where
  | echo
  | byte (v : Byte)
  | draw
deriving DecidableEq, Repr

/-- The byte that goes out for an answer, `none` where each bit is a free draw. -/
def TargetAnswer.onWire (b2 : Byte) : TargetAnswer → Option Byte
  | .echo => some b2
  | .byte v => some v
  | .draw => none

/-- What each frame answers in R3 (TM5). A signature byte above 2 is a draw (41_framer.md R124, 93_implementation_defined.md U4;
log 8). -/
def Target.data (t : Target) : Instr → TargetAnswer
  | .readSig n => if n = 0 then .byte t.sig0 else if n = 1 then .byte t.sig1 else if n = 2 then .byte t.sig2 else .draw
  | .readEe a => .byte (Memory.read t.ee a.toNat)
  | .readFuseLo => .byte t.fuseLo
  | .readFuseExt => .byte t.fuseExt
  | .readFuseHi => .byte t.fuseHi
  | .readMemLo w => .byte (t.pmemByte (2 * w.toNat))
  | .readMemHi w => .byte (t.pmemByte (2 * w.toNat + 1))
  | .progEn | .writeEe _ _ | .writeFuseLo _ | .writeFuseHi _ | .writeFuseExt _ | .chipErase | .loadMemLo _ _
  | .loadMemHi _ _ | .writePage _ => .echo
  | .exchange _ | .transact _ | .focus _ | .enterProgMode | .identify _ | .readParams _ | .waitMs _ => .echo

/-- R3: the data of a read in PROG, else B2 (TM3). B3 is not known when R3 goes out; a read's B3 is 0x00. -/
def Target.answer3 (t : Target) : Option Byte :=
  match t.mode, decodeFrame (packFrame t.b0 t.b1 t.b2 0) with
  | .prog, .ok c => (t.data c).onWire t.b2
  | _, _ => some t.b2

/-- Commit the page buffer (TM5): the page holding word w takes it, as far as PMEM reaches, and the buffer goes blank. -/
def Target.commitPage (t : Target) (w : Nat) : Target :=
  let base := w - w % t.pageSize
  { t with
    pmem := Memory.copy t.pageBuf 0 (2 * base) t.pmem (2 * min t.pageSize (t.words - base))
    pageBuf := [] }

/-- What a listed frame does in PROG (TM5). `erased` is ERASED_BYTE. -/
def Target.act (erased : Byte) (t : Target) : Instr → Target
  | .writeEe a v => { t with ee := Memory.write t.ee a.toNat v }
  | .writeFuseLo v => { t with fuseLo := v }
  | .writeFuseHi v => { t with fuseHi := v }
  | .writeFuseExt v => { t with fuseExt := v }
  | .chipErase => { t with pmem := Memory.fill (2 * t.words) erased }
  | .loadMemLo o v => { t with pageBuf := Memory.write t.pageBuf (2 * (o.toNat % t.pageSize)) v }
  | .loadMemHi o v => { t with pageBuf := Memory.write t.pageBuf (2 * (o.toNat % t.pageSize) + 1) v }
  | .writePage w => t.commitPage w.toNat
  | .progEn | .readSig _ | .readEe _ | .readFuseLo | .readFuseExt | .readFuseHi | .readMemLo _ | .readMemHi _ => t
  | .exchange _ | .transact _ | .focus _ | .enterProgMode | .identify _ | .readParams _ | .waitMs _ => t

/-- A whole frame has arrived, its last byte `b3`: in SYNC only PROG_EN does something (TM4), in PROG the listed frames
do (TM5). -/
def Target.frameDone (erased : Byte) (t : Target) (b3 : Byte) : Target :=
  match t.mode, decodeFrame (packFrame t.b0 t.b1 t.b2 b3) with
  | .sync, .ok c => if c = .progEn then { t with mode := .prog } else t
  | .prog, .ok c => t.act erased c
  | _, _ => t

/-- A whole byte has arrived: R1 is B0, R2 is B1, R3 is `answer3`, and the next frame's R0 is 0x00 (TM3). -/
def Target.byteDone (erased : Byte) (t : Target) (b : Byte) : Target :=
  match t.cnt with
  | 0 => { t with b0 := b, cnt := 1, tx := some b }
  | 1 => { t with b1 := b, cnt := 2, tx := some b }
  | 2 => { t with b2 := b, cnt := 3, tx := ({ t with b2 := b } : Target).answer3 }
  | 3 => { t.frameDone erased b with cnt := 0, tx := some 0 }

/-- A falling RST edge: `mode = SYNC` and `cnt = 0` (TM2); nothing of a byte begun before is left. -/
def Target.enterSync (t : Target) : Target :=
  { t with mode := .sync, cnt := 0, bit := 0, rx := 0, tx := some 0, latch := false }

/-- A rising CLK edge: the target takes the level of DOUT. A target with RST high hears nothing (TM2). -/
def Target.clkRise (t : Target) (dout : Bool) : Target := if t.mode = .off then t else { t with latch := dout }

/-- A falling CLK edge: the bit is shifted in, and after eight the byte is done. A target with RST high hears nothing
(TM2). -/
def Target.clkFall (erased : Byte) (t : Target) : Target :=
  if t.mode = .off then t
  else if t.bit = 7 then
    ({ t with bit := 0, rx := 0, latch := false } : Target).byteDone erased (shiftIn t.rx t.latch)
  else { t with bit := t.bit + 1, rx := shiftIn t.rx t.latch }

/-- The level the target puts on DIN: 1 where it does not drive it (TM2), else the current bit of the answer, bit 7
first; `free` where the answer is a draw. -/
def Target.dinLevel (free : Bool) (t : Target) : Bool :=
  if t.mode = .off then true
  else
    match t.tx with
    | some v => v.getLsbD (7 - t.bit.val)
    | none => free

/-- What the target makes of the block driving line `x` from `old` to `v`, DOUT being at `dout`. An edge is a change
between two driven levels (TM2). -/
def Target.sees (erased : Byte) (x : Line) (old : LineState) (v : Level) (dout : Bool) (t : Target) : Target :=
  match x, v with
  | .rst, .high => { t with mode := .off }
  | .rst, .low => if old = ⟨.output, .high⟩ then t.enterSync else t
  | .clk, .high => if old = ⟨.output, .low⟩ then t.clkRise dout else t
  | .clk, .low => if old = ⟨.output, .high⟩ then t.clkFall erased else t
  | _, _ => t

/-- A present target before anything was done to it (TM2, TM6), of the given signature and geometry. -/
def Target.fresh (s0 s1 s2 : Byte) (pageSize pageCount : Nat) (lo hi ext : Byte) : Target where
  mode := .off
  cnt := 0
  bit := 0
  rx := 0
  tx := some 0
  latch := false
  b0 := 0
  b1 := 0
  b2 := 0
  sig0 := s0
  sig1 := s1
  sig2 := s2
  pageSize := pageSize
  pageCount := pageCount
  pmem := []
  pageBuf := []
  ee := []
  fuseLo := lo
  fuseHi := hi
  fuseExt := ext

/-- The standard target T84 of 95_test_vectors.md. -/
def Target.t84 : Target := .fresh 0x1E 0x93 0x0C 32 128 0x62 0xDF 0xFF

/-- The standard target T44 of 95_test_vectors.md. -/
def Target.t44 : Target := .fresh 0x1E 0x92 0x07 32 64 0x62 0xDF 0xFF

/-- The target's memories are in canonical form. -/
abbrev Target.wf (t : Target) : Prop := Memory.wf t.pmem ∧ Memory.wf t.pageBuf ∧ Memory.wf t.ee

end Sys2Proof.Machine
end

