-- ==== Sys2Proof/Machine/Ops.lean ====
section
/-! DEFINITION. The named operations every meaning is made of: reading and writing a port, the primitives of 00_scope.md R9
on the lines, the start and the end of a host operation, raising a fault (the block's only exception, 60_exceptions.md
R219), the byte shift of the Bit Channel, the host's request port, and a reset of the running block. -/

namespace Sys2Proof.Machine

open Sys2Proof.Config (DeviceParams Params Scratch ByteRegs HostOp Phase)

/-! ### Ports -/

/-- What the machine holds for port p. -/
def State.port (s : State) : Port → PortState
  | .socket => s.socket
  | .bus => s.bus

/-- Write what the machine holds for port p. -/
def State.setPort (s : State) (p : Port) (v : PortState) : State :=
  match p with
  | .socket => { s with socket := v }
  | .bus => { s with bus := v }

/-- One line of a port. -/
def PortState.line (v : PortState) : Line → LineState
  | .rst => v.rst
  | .clk => v.clk
  | .dout => v.dout
  | .din => v.din

/-- Write one line of a port. -/
def PortState.setLine (v : PortState) (x : Line) (l : LineState) : PortState :=
  match x with
  | .rst => { v with rst := l }
  | .clk => { v with clk := l }
  | .dout => { v with dout := l }
  | .din => { v with din := l }

/-- "exists q. SETTLE[q] > 0" (60_exceptions.md R215). -/
def State.settleOwed (s : State) : Bool := decide (0 < s.socket.settle) || decide (0 < s.bus.settle)

/-! ### The primitives of 00_scope.md R9 -/

/-- Write the registers that are unspecified between operations. -/
def State.setScratch (s : State) (k : Scratch) : State := { s with scratch := k }

/-- Write FOCUS. -/
def State.setFocus (s : State) (f : Option Port) : State := { s with focus := f }

/-- Write the number of the next free draw. -/
def State.setDraws (s : State) (n : Nat) : State := { s with draws := n }

/-- The line actions and delays of the last operation in time order (log 10). -/
def State.waveform (s : State) : List LineEvent := s.wave.reverse

/-- Put one action on the line record (log 10). -/
def State.note (s : State) (e : LineEvent) : State := { s with wave := e :: s.wave }

/-- The line record begins anew (log 10). -/
def State.newRecord (s : State) : State := { s with wave := [] }

/-- What is attached sees the block drive line `x` from `old` to `v`. Only the reference target takes notice; a DOUT
level nothing names shows it `free`. -/
def Attached.sees (erased : Byte) (x : Line) (old : LineState) (v dout : Level) (free : Bool) : Attached → Attached
  | .env l => .env l
  | .stuck b => .stuck b
  | .loop => .loop
  | .chip t => .chip (t.sees erased x old v (dout.resolve free))

/-- `Drive(LINE(p, X), v)`: the line is an output at level v. -/
def State.drive (s : State) (p : Port) (x : Line) (v : Level) : State :=
  (s.setPort p
    { (s.port p).setLine x ⟨.output, v⟩ with
      attached := (s.port p).attached.sees s.params.erasedByte x ((s.port p).line x) v (s.port p).dout.lvl
        (Config.envDin p s.draws) }).note (.drive (Config.bind p x) v)

/-- `Release(LINE(p, X))`: the line becomes an input; its level no longer matters (10_state.md R25; log 11). -/
def State.release (s : State) (p : Port) (x : Line) : State :=
  (s.setPort p ((s.port p).setLine x ⟨.input, ((s.port p).line x).lvl⟩)).note (.release (Config.bind p x))

/-- `DelayUs(n)`. The model has no time; the wait is recorded. -/
def State.delayUs (s : State) (n : Nat) : State := s.note (.delayUs n)

/-- `DelayMs(n)`. The model has no time; the wait is recorded. -/
def State.delayMs (s : State) (n : Nat) : State := s.note (.delayMs n)

/-- The level `Sample(LINE(p, DIN))` finds (00_scope.md R9, 10_state.md R25): a free draw of ENV_DIN unless what is attached
says otherwise. -/
def State.dinLevel (s : State) (p : Port) : Bool :=
  match (s.port p).attached with
  | .env (b :: _) => b
  | .env [] => Config.envDin p s.draws
  | .stuck b => b
  | .loop =>
    match (s.port p).dout.dir with
    | .output => (s.port p).dout.lvl.resolve (Config.envDin p s.draws)
    | .input => Config.envDin p s.draws
  | .chip t => t.dinLevel (Config.envDin p s.draws)

/-- What is attached after one sample: a foretold level is used up. -/
def Attached.sampled : Attached → Attached
  | .env l => .env l.tail
  | .stuck b => .stuck b
  | .loop => .loop
  | .chip t => .chip t

/-- The state after `Sample(LINE(p, DIN))`. Every sample takes a draw number, so no two samples share a free level. -/
def State.sampled (s : State) (p : Port) : State :=
  ((s.setPort p { s.port p with attached := (s.port p).attached.sampled }).setDraws (s.draws + 1)).note
    (.sample p (s.dinLevel p))

/-! ### The start and the end of a host operation -/

/-- `BUSY <- 1` and OP (30_encoding.md R77, 10_state.md R28); the line record begins anew. -/
def State.start (s : State) (op : HostOp) : State :=
  { s with busy := true, scratch := { s.scratch with op := op }, wave := [] }

/-- Write RESULT and `BUSY <- 0` (30_encoding.md R77). What SR_OUT, SR_IN, CMD, RSP, OP, PHASE, BYTE_IDX and BIT_IDX hold
from then on is a free value (93_implementation_defined.md U20; log 5). -/
def State.finish (s : State) (r : Result) : State :=
  { s with
    busy := false
    result := r
    scratch := Config.idleScratch s.free
    free := s.free + 1 }

/-- `raise Fault(code)` (60_exceptions.md R219): `RESULT <- (FAULT, code, none)`, the code joins FAULTS, `BUSY <- 0`; no line
action, and nothing else of the block changes. -/
def State.raise (s : State) (c : FaultCode) : State :=
  { s with faults := addFault c s.faults, wave := [] }.finish (.failed c)

/-- `PHASE <- x` (10_state.md R28). -/
def State.setPhase (s : State) (x : Phase) : State := s.setScratch { s.scratch with phase := x }

/-- Complete with status OK. -/
def State.complete (s : State) (v : Value) : State := s.finish (.done v)

/-! ### The byte shift of 40_bit_channel.md R100 -/

/-- One iteration of the loop of R100, for bit i. -/
def State.shiftBit (s : State) (p : Port) (i : Fin 8) : State :=
  let s := s.setScratch { s.scratch with bitIdx := i }
  let s := s.drive p .clk .low
  let s := s.drive p .dout (levelOf (s.scratch.srOut.getLsbD i.val))
  let s := s.delayUs s.params.tHalfUs
  let s := s.drive p .clk .high
  let b := s.dinLevel p
  let s := s.sampled p
  let s := s.setScratch { s.scratch with srIn := putBit s.scratch.srIn i b }
  s.delayUs s.params.tHalfUs

/-- `SHIFT8(out)` (41_framer.md R120): from `SR_OUT <- out` to the last `Drive(L(CLK), 0)`. SR_IN is cleared first; each of
its bits is written before it is read (10_state.md R29). -/
def State.shift8 (s : State) (p : Port) (out : Byte) : State :=
  let s := s.setScratch { s.scratch with srOut := out, srIn := 0 }
  let s := s.shiftBit p 7
  let s := s.shiftBit p 6
  let s := s.shiftBit p 5
  let s := s.shiftBit p 4
  let s := s.shiftBit p 3
  let s := s.shiftBit p 2
  let s := s.shiftBit p 1
  let s := s.shiftBit p 0
  s.drive p .clk .low

/-! ### The frame exchange of 41_framer.md R120 -/

/-- `BYTE_IDX <- k; RSP[k] <- SHIFT8(CMD[k])`. -/
def State.shiftByte (s : State) (p : Port) (k : Fin 4) : State :=
  let s := s.setScratch { s.scratch with byteIdx := k }
  let s := s.shift8 p (regAt s.scratch.cmd k)
  s.setScratch { s.scratch with rsp := putReg s.scratch.rsp k s.scratch.srIn }

/-- The two loops of R120: load CMD, then shift the four bytes, B0 first. -/
def State.shiftFrame (s : State) (p : Port) (frame : Frame) : State :=
  let s := s.setScratch { s.scratch with cmd := regsOfFrame frame }
  let s := s.shiftByte p 0
  let s := s.shiftByte p 1
  let s := s.shiftByte p 2
  s.shiftByte p 3

/-- What TRANSACT writes after the frame: `if c = PROG_EN: PORT_MODE[p] <- ENABLE_SENT` and `SETTLE[p] <- SETTLE_OF(c)`. -/
def State.commandSent (s : State) (p : Port) (c : Instr) : State :=
  s.setPort p
    { s.port p with
      mode := if c = .progEn then .enableSent else (s.port p).mode
      settle := settleOf s.params c }

/-- The body of TRANSACT (R120) for command c, once its checks have passed. -/
def State.sendCommand (s : State) (p : Port) (c : Instr) (frame : Frame) : State :=
  (s.shiftFrame p frame).commandSent p c

/-- `{RSP[0], RSP[1], RSP[2], RSP[3]}`, what the last frame exchange received. -/
def State.received (s : State) : Frame := frameOfRegs s.scratch.rsp

/-! ### The host's request port (30_encoding.md R77) -/

/-- Whether a reset lands in the next step, and after how many line actions (20_memory.md R56; log 24). -/
def State.resetDue (s : State) : Option Nat := s.resets.headD none

/-- The next step has come, and with it the reset that was due in it. -/
def State.passReset (s : State) : State := { s with resets := s.resets.tail }

/-- The word the host presents, and the state once the block has taken it. -/
def takeRequest (s : State) : Option (HostWord × State) :=
  match s.requests with
  | [] => none
  | w :: rest => some (w, { s.passReset with requests := rest })

/-- The host presents `w` next. -/
def State.present (s : State) (w : HostWord) : State := { s with requests := w :: s.requests }

/-- A reserved word: `F_BAD_REQ` (60_exceptions.md R213). -/
def refuseWord (s : State) : State := s.raise .badReq

/-- The host word that carries the instruction whose table word is `w`: a 32-bit row is a frame, which reaches the block
through TRANSACT alone; a 40-bit row is a host word. -/
def wordFromTable (nbits w : Nat) : HostWord :=
  if nbits = 32 then transactWord (BitVec.ofNat 32 w) else BitVec.ofNat 40 w

/-! ### A reset of the running block -/

/-- A port after a reset of the block: the target keeps what it had (70_reset_and_hazards.md R231). -/
def PortState.afterReset (v : PortState) : PortState := { PortState.reset with attached := v.attached }

/-- Reset from outside (70_reset_and_hazards.md R230, R231): the block's state goes to its reset values, "A reset of the
block says nothing about the targets", and the model's own fields stay (log 14). -/
def blockReset (s : State) : State :=
  { State.reset with
    socket := s.socket.afterReset
    bus := s.bus.afterReset
    params := s.params
    requests := s.requests
    resets := s.resets
    draws := s.draws
    free := s.free }

end Sys2Proof.Machine
end

