-- ==== Sys2Proof/Machine/BitChannel.lean ====
section
/-! DEFINITION. The Bit Channel: EXCHANGE (40_bit_channel.md). -/

namespace Sys2Proof.Machine

/-- The checks of EXCHANGE after the word's own, in the order of R100. -/
def exchangeFault (s : State) : Option FaultCode :=
  firstFault [(s.focus.isNone, .noFocus), (s.settleOwed, .settle)]

/-- The body of EXCHANGE on the focused port p (R100): the shift, then `FRAME_PHASE[p] <- (FRAME_PHASE[p] + 1) mod 4`. -/
def exchangeRun (p : Port) (out : Byte) (s : State) : State :=
  let s := (s.start .exchange).shift8 p out
  let s := s.setPort p { s.port p with framePhase := (s.port p).framePhase + 1 }
  s.complete (.byte s.scratch.srIn)

/-- EXCHANGE out (40_bit_channel.md R100): one full-duplex byte shift on the focused port. -/
def execExchange (out : Byte) (s : State) : Host.Outcome State Fault Refusal :=
  match exchangeFault s, s.focus with
  | none, some p => .next (exchangeRun p out s)
  | none, none => .next (s.raise .noFocus)
  | some c, _ => .next (s.raise c)

end Sys2Proof.Machine
end

