-- ==== Sys2Proof/Machine/Framer.lean ====
section
/-! DEFINITION. The Transaction Framer (41_framer.md): TRANSACT, the sixteen ISP commands and WAIT_MS. The block's own
action for a command "is only TRANSACT's (rule R120)"; what the target does stands in Machine/Target.lean, informative. -/

namespace Sys2Proof.Machine

/-- FRAME_PHASE of the focused port is not 0 (60_exceptions.md R220). -/
def State.misaligned (s : State) : Bool :=
  match s.focus with
  | none => false
  | some p => decide ((s.port p).framePhase ≠ 0)

/-- The focused port is not in a PORT_MODE the command may be sent in (60_exceptions.md R222). -/
def State.notEnabled (s : State) (c : Instr) : Bool :=
  match s.focus with
  | none => false
  | some p => !modeOk c (s.port p).mode

/-- The checks of TRANSACT after the word's own, in the order of R120. -/
def transactFault (frame : Frame) (s : State) : Option FaultCode :=
  match firstFault [(s.focus.isNone, .noFocus), (s.settleOwed, .settle), (s.misaligned, .misaligned)] with
  | some f => some f
  | none =>
    match decodeFrame frame with
    | .error _ => some .unlisted
    | .ok c => firstFault [(s.notEnabled c, .notEnabled)]

/-- The body of TRANSACT for the listed command c on the focused port p, and its result (R120). -/
def transactRun (p : Port) (c : Instr) (frame : Frame) (s : State) : State :=
  let s := (s.start .transact).sendCommand p c frame
  s.complete (.frame s.received)

/-- TRANSACT of a frame (R120), for TRANSACT itself and for each command. -/
def transactFrame (frame : Frame) (s : State) : Host.Outcome State Fault Refusal :=
  match transactFault frame s, s.focus, decodeFrame frame with
  | none, some p, .ok c => .next (transactRun p c frame s)
  | none, some _, .error _ => .next (s.raise .unlisted)
  | none, none, _ => .next (s.raise .noFocus)
  | some f, _, _ => .next (s.raise f)

/-- TRANSACT frame (41_framer.md R120): send one 4-byte frame and return the 4 bytes received. -/
def execTransact (frame : Frame) (s : State) : Host.Outcome State Fault Refusal := transactFrame frame s

/-- PROG_EN (R123): frame 0xAC530000. -/
def execProgEn (s : State) : Host.Outcome State Fault Refusal :=
  transactFrame (packFrame 0xAC 0x53 0x00 0x00) s

/-- READ_SIG n (R124): frame `{0x30, 0x00, n, 0x00}`. -/
def execReadSig (n : Byte) (s : State) : Host.Outcome State Fault Refusal :=
  transactFrame (packFrame 0x30 0x00 n 0x00) s

/-- READ_EE addr (R125): frame `{0xA0, 0x00, addr, 0x00}`. -/
def execReadEe (addr : Byte) (s : State) : Host.Outcome State Fault Refusal :=
  transactFrame (packFrame 0xA0 0x00 addr 0x00) s

/-- WRITE_EE addr, value (R126): frame `{0xC0, 0x00, addr, value}`. -/
def execWriteEe (addr value : Byte) (s : State) : Host.Outcome State Fault Refusal :=
  transactFrame (packFrame 0xC0 0x00 addr value) s

/-- READ_FUSE_LO (R127): frame 0x50000000. -/
def execReadFuseLo (s : State) : Host.Outcome State Fault Refusal :=
  transactFrame (packFrame 0x50 0x00 0x00 0x00) s

/-- READ_FUSE_EXT (R128): frame 0x50080000. -/
def execReadFuseExt (s : State) : Host.Outcome State Fault Refusal :=
  transactFrame (packFrame 0x50 0x08 0x00 0x00) s

/-- READ_FUSE_HI (R129): frame 0x58080000. -/
def execReadFuseHi (s : State) : Host.Outcome State Fault Refusal :=
  transactFrame (packFrame 0x58 0x08 0x00 0x00) s

/-- WRITE_FUSE_LO value (R130): frame `{0xAC, 0xA0, 0x00, value}`. -/
def execWriteFuseLo (value : Byte) (s : State) : Host.Outcome State Fault Refusal :=
  transactFrame (packFrame 0xAC 0xA0 0x00 value) s

/-- WRITE_FUSE_HI value (R131): frame `{0xAC, 0xA8, 0x00, value}`. -/
def execWriteFuseHi (value : Byte) (s : State) : Host.Outcome State Fault Refusal :=
  transactFrame (packFrame 0xAC 0xA8 0x00 value) s

/-- WRITE_FUSE_EXT value (R132): frame `{0xAC, 0xA4, 0x00, value}`. -/
def execWriteFuseExt (value : Byte) (s : State) : Host.Outcome State Fault Refusal :=
  transactFrame (packFrame 0xAC 0xA4 0x00 value) s

/-- CHIP_ERASE (R133): frame 0xAC800000. -/
def execChipErase (s : State) : Host.Outcome State Fault Refusal :=
  transactFrame (packFrame 0xAC 0x80 0x00 0x00) s

/-- READ_MEM_LO w (R134): frame `{0x20, w[15:8], w[7:0], 0x00}`. -/
def execReadMemLo (w : Half) (s : State) : Host.Outcome State Fault Refusal :=
  transactFrame (packFrame 0x20 (addrHi w) (addrLo w) 0x00) s

/-- READ_MEM_HI w (R135): frame `{0x28, w[15:8], w[7:0], 0x00}`. -/
def execReadMemHi (w : Half) (s : State) : Host.Outcome State Fault Refusal :=
  transactFrame (packFrame 0x28 (addrHi w) (addrLo w) 0x00) s

/-- LOAD_MEM_LO off, value (R136): frame `{0x40, 0x00, off, value}`. -/
def execLoadMemLo (off value : Byte) (s : State) : Host.Outcome State Fault Refusal :=
  transactFrame (packFrame 0x40 0x00 off value) s

/-- LOAD_MEM_HI off, value (R137): frame `{0x48, 0x00, off, value}`. -/
def execLoadMemHi (off value : Byte) (s : State) : Host.Outcome State Fault Refusal :=
  transactFrame (packFrame 0x48 0x00 off value) s

/-- WRITE_PAGE w (R138): frame `{0x4C, w[15:8], w[7:0], 0x00}`. -/
def execWritePage (w : Half) (s : State) : Host.Outcome State Fault Refusal :=
  transactFrame (packFrame 0x4C (addrHi w) (addrLo w) 0x00) s

/-- `SETTLE[q] <- max(0, SETTLE[q] - n)` on one port (R140): subtraction of naturals stops at 0. -/
def PortState.wait (v : PortState) (n : Nat) : PortState := { v with settle := v.settle - n }

/-- The body of WAIT_MS (R140): time passes for both ports at once. -/
def waitRun (n : BitVec 32) (s : State) : State :=
  let s := (s.start .waitMs).delayMs n.toNat
  let s := s.setPort .socket ((s.port .socket).wait n.toNat)
  let s := s.setPort .bus ((s.port .bus).wait n.toNat)
  s.complete .none

/-- WAIT_MS n (41_framer.md R140). It needs no focus, and it drives no line. -/
def execWaitMs (n : BitVec 32) (s : State) : Host.Outcome State Fault Refusal := .next (waitRun n s)

end Sys2Proof.Machine
end

