-- ==== Sys2Proof/Machine/Multiplexer.lean ====
section
/-! DEFINITION. The Interface Multiplexer: FOCUS and ENTER_PROG_MODE (42_multiplexer.md). -/

namespace Sys2Proof.Machine

/-- The check of FOCUS and of IDENTIFY after the word's own: some settle is owed (R170, 43_identifier.md R190). -/
def settleFault (s : State) : Option FaultCode := firstFault [(s.settleOwed, .settle)]

/-- `for X in {RST, CLK, DOUT}: Release(LINE(q, X))` (R170). -/
def releasePort (q : Port) (s : State) : State :=
  ((s.release q .rst).release q .clk).release q .dout

/-- The port FOCUS b releases: under RELEASE the one focused before, where there is one and it is not b (R170,
10_state.md R26). -/
def releasedBy (b : Port) (s : State) : Option Port :=
  match s.focus, s.params.unfocusedLines with
  | none, _ => none
  | some _, .hold => none
  | some old, .release => if old = b then none else some old

/-- The rest of FOCUS (R170): rebind, then DIN to input, CLK low, RST high (idle), DOUT an output at a level nothing
names. -/
def bindPort (b : Port) (s : State) : State :=
  let s := s.setFocus (some b)
  let s := s.release b .din
  let s := s.drive b .clk .low
  let s := s.drive b .rst .high
  let s := s.drive b .dout .unspecified
  s.setPort b { s.port b with mode := .idle, framePhase := 0 }

/-- The line work of FOCUS b (R170), for FOCUS itself and for IDENTIFY. -/
def focusBody (b : Port) (s : State) : State :=
  match releasedBy b s with
  | none => bindPort b s
  | some old => bindPort b (releasePort old s)

/-- The body of FOCUS and its result. -/
def focusRun (b : Port) (s : State) : State := (focusBody b (s.start .focus)).complete .none

/-- FOCUS b (42_multiplexer.md R170): bind the logical lines to port b and reset that port to idle. -/
def execFocus (b : Port) (s : State) : Host.Outcome State Fault Refusal :=
  match settleFault s with
  | none => .next (focusRun b s)
  | some c => .next (s.raise c)

/-- The frame of PROG_EN, 0xAC530000 (41_framer.md R123). -/
def progEnFrame : Frame := packFrame 0xAC 0x53 0x00 0x00

/-- The RST strobe of R171: low, idle, active, then the settle delay; the target's framing starts anew. -/
def strobe (p : Port) (s : State) : State :=
  let s := ((s.setPhase .strobeLow).drive p .rst .low).delayUs s.params.tRstAUs
  let s := ((s.setPhase .strobeIdle).drive p .rst .high).delayUs s.params.tRstBUs
  let s := (s.setPhase .strobeActive).drive p .rst .low
  let s := (s.setPhase .settleWait).delayUs s.params.tProgSettleUs
  s.setPort p { s.port p with mode := .resetActive, framePhase := 0 }

/-- The line work of ENTER_PROG_MODE on port p (R171), for itself and for IDENTIFY. "The inner TRANSACT cannot fault", so its
checks are not asked again (log 20). -/
def enterBody (p : Port) (s : State) : State :=
  ((strobe p s).setPhase .enable).sendCommand p .progEn progEnFrame

/-- The body of ENTER_PROG_MODE and its result `r[15:8]`, the R2 byte, whatever it is (R171, R172). -/
def enterRun (p : Port) (s : State) : State :=
  let s := enterBody p (s.start .enterProgMode)
  s.complete (.byte (frameB2 s.received))

/-- The checks of ENTER_PROG_MODE after the word's own, in the order of R171. -/
def enterFault (s : State) : Option FaultCode :=
  firstFault [(s.focus.isNone, .noFocus), (s.settleOwed, .settle)]

/-- ENTER_PROG_MODE (42_multiplexer.md R171): strobe RST, wait, send the programming-enable frame, return the echo byte. -/
def execEnterProgMode (s : State) : Host.Outcome State Fault Refusal :=
  match enterFault s, s.focus with
  | none, some p => .next (enterRun p s)
  | none, none => .next (s.raise .noFocus)
  | some c, _ => .next (s.raise c)

end Sys2Proof.Machine
end

