-- ==== Sys2Proof/Machine/Identifier.lean ====
section
/-! DEFINITION. The Chip Identifier: IDENTIFY and READ_PARAMS (43_identifier.md). -/

namespace Sys2Proof.Machine

open Sys2Proof.Config (DeviceParams)

/-- `LOOKUP(sig)` (R192): the row of SIGTAB with exactly this signature. -/
def lookup (sig : Sig) : Option DeviceParams := Config.sigTab.find? (fun r => r.sig == sig)

/-- The frame of READ_SIG n (41_framer.md R124). -/
def readSigFrame (n : Byte) : Frame := packFrame 0x30 0x00 n 0x00

/-- `PHASE <- SIG(n)` and the READ_SIG n frame (R190); its checks are not asked again (log 20). -/
def readSigBody (b : Port) (n : Fin 3) (s : State) : State :=
  (s.setPhase (.sig n)).sendCommand b (.readSig (BitVec.ofNat 8 n.val)) (readSigFrame (BitVec.ofNat 8 n.val))

/-- What IDENTIFY leaves for a looked-up signature (R190, R193): on a match CHIP[b] takes all four fields of the row,
WRITTEN[b] is set and the row is the result; else ABSENT, with CHIP[b] and WRITTEN[b] unchanged. -/
def identifyEnd (b : Port) (found : Option DeviceParams) (s : State) : State :=
  (s.setPort b
    { s.port b with
      chip := found.getD (s.port b).chip
      written := found.isSome || (s.port b).written }).finish
    (match found with
      | some row => .done (.params row)
      | none => .missing)

/-- The body of IDENTIFY (R190): FOCUS, ENTER_PROG_MODE with the echo discarded, READ_SIG 0, 1, 2, then the lookup. -/
def identifyRun (b : Port) (s : State) : State :=
  let s := focusBody b ((s.start .identify).setPhase .focusing)
  let s := enterBody b (s.setPhase .entering)
  let s := readSigBody b 0 s
  let s0 := frameB3 s.received
  let s := readSigBody b 1 s
  let s1 := frameB3 s.received
  let s := readSigBody b 2 s
  let s2 := frameB3 s.received
  identifyEnd b (lookup (assembleSig s0 s1 s2)) s

/-- IDENTIFY b (43_identifier.md R190): identify the chip on port b. -/
def execIdentify (b : Port) (s : State) : Host.Outcome State Fault Refusal :=
  match settleFault s with
  | none => .next (identifyRun b s)
  | some c => .next (s.raise c)

/-- The check of READ_PARAMS after the word's own (R194). -/
def paramsFault (b : Port) (s : State) : Option FaultCode := firstFault [(!(s.port b).written, .unidentified)]

/-- The body of READ_PARAMS (R194): it drives no line and needs no focus. -/
def paramsRun (b : Port) (s : State) : State := (s.start .readParams).complete (.params (s.port b).chip)

/-- READ_PARAMS b (43_identifier.md R194): read the Device Parameters of Chip Record b. -/
def execReadParams (b : Port) (s : State) : Host.Outcome State Fault Refusal :=
  match paramsFault b s with
  | none => .next (paramsRun b s)
  | some c => .next (s.raise c)

end Sys2Proof.Machine
end

