-- ==== Sys2Proof/Machine/Dispatch.lean ====
section
/-! DEFINITION. One arm per instruction: the meaning each is given. -/

namespace Sys2Proof.Machine

def exec (i : Instr) (s : State) : Host.Outcome State Fault Refusal :=
  match i with
  -- the sixteen ISP commands (41_framer.md R123 to R138)
  | .progEn => Sys2Proof.Machine.execProgEn s
  | .readSig n => Sys2Proof.Machine.execReadSig n s
  | .readEe addr => Sys2Proof.Machine.execReadEe addr s
  | .writeEe addr value => Sys2Proof.Machine.execWriteEe addr value s
  | .readFuseLo => Sys2Proof.Machine.execReadFuseLo s
  | .readFuseExt => Sys2Proof.Machine.execReadFuseExt s
  | .readFuseHi => Sys2Proof.Machine.execReadFuseHi s
  | .writeFuseLo value => Sys2Proof.Machine.execWriteFuseLo value s
  | .writeFuseHi value => Sys2Proof.Machine.execWriteFuseHi value s
  | .writeFuseExt value => Sys2Proof.Machine.execWriteFuseExt value s
  | .chipErase => Sys2Proof.Machine.execChipErase s
  | .readMemLo w => Sys2Proof.Machine.execReadMemLo w s
  | .readMemHi w => Sys2Proof.Machine.execReadMemHi w s
  | .loadMemLo off value => Sys2Proof.Machine.execLoadMemLo off value s
  | .loadMemHi off value => Sys2Proof.Machine.execLoadMemHi off value s
  | .writePage w => Sys2Proof.Machine.execWritePage w s
  -- the seven host operations (30_encoding.md R76)
  | .exchange out => Sys2Proof.Machine.execExchange out s
  | .transact frame => Sys2Proof.Machine.execTransact frame s
  | .focus b => Sys2Proof.Machine.execFocus b s
  | .enterProgMode => Sys2Proof.Machine.execEnterProgMode s
  | .identify b => Sys2Proof.Machine.execIdentify b s
  | .readParams b => Sys2Proof.Machine.execReadParams b s
  | .waitMs n => Sys2Proof.Machine.execWaitMs n s

end Sys2Proof.Machine
end

