-- ==== Sys2Proof/Machine/Perform.lean ====
section
/-! DEFINITION. What one step is made of: performing the presented word, waiting where there is none, and a reset of the block
that lands between two operations or in the middle of one (20_memory.md R56, 70_reset_and_hazards.md R230, R231). -/

namespace Sys2Proof.Machine

/-- Perform the word the host presents (30_encoding.md R77): a reserved one is refused with F_BAD_REQ (R78). -/
def perform (w : HostWord) (s : State) : Host.Outcome State Fault Refusal :=
  match decodeHost w with
  | .error _ => .next (refuseWord s)
  | .ok i => exec i s

/-- One line action or delay of the record, by itself. -/
def State.act (s : State) : LineEvent → State
  | .drive x v => s.drive x.port x.line v
  | .release x => s.release x.port x.line
  | .sample p _ => s.sampled p
  | .delayUs n => s.delayUs n
  | .delayMs n => s.delayMs n

/-- Line actions one after another. -/
def State.acts (s : State) (l : List LineEvent) : State := l.foldl State.act s

/-- An operation after its first k line actions, as far as lines and targets go: "The target sees every edge as it happens"
(20_memory.md R56). What its registers hold there the reset that follows wipes out. -/
def partway (k : Nat) (w : HostWord) (s : State) : State :=
  match perform w s with
  | .next t => s.newRecord.acts (t.waveform.take k)
  | .fault _ => s
  | .refused _ => s

/-- The operation of word w, stopped by a reset of the block after k line actions: "the target's framing would be left partway"
(20_memory.md R56). The record keeps the actions that were done (log 24). -/
def resetPartway (k : Nat) (w : HostWord) (s : State) : State :=
  { blockReset (partway k w s) with wave := (partway k w s).wave }

/-- With no word presented the block waits (log 1), or is reset. -/
def waitForWord (s : State) : State :=
  match s.resetDue with
  | none => s.passReset
  | some _ => blockReset s.passReset

end Sys2Proof.Machine
end

