-- ==== Sys2Proof/Machine/Step.lean ====
section
/-! DEFINITION. One step: the block takes the word the host presents and performs that operation to completion
(30_encoding.md R77, 20_memory.md R56, R59). -/

namespace Sys2Proof.Machine

/-- One step. With no word presented the block waits (log 1). A word presented while BUSY = 1 breaks a host duty (R77,
R238). Any other is performed to completion, unless the environment resets the block partway (R56, log 24). -/
def step (s : State) : Host.Outcome State Fault Refusal :=
  match takeRequest s with
  | none => .next (waitForWord s)
  | some (w, s') =>
    if s.busy then .fault .requestWhileBusy
    else
      match s.resetDue with
      | none => perform w s'
      | some k => .next (resetPartway k w s')

/-- The host presents the instruction whose table word is `w`, the block is ready for it (BUSY = 0, R77), and no reset
lands in it. -/
def State.withFetchWord (s : State) (nbits w : Nat) : State :=
  { s.present (wordFromTable nbits w) with busy := false, resets := s.resets.set 0 none }

end Sys2Proof.Machine
end

