-- ==== Sys2Proof/Machine/Text.lean ====
section
/-! DEFINITION. The spec's own text syntax (30_encoding.md R81, R82; 92_eei_decisions.md D22): from a line of characters to a
text line, and from a text line to host operations and host words. A line with an operand out of range is refused, never
wrapped. -/

namespace Sys2Proof

/-! ### From a text line to host words -/

/-- The frame of a `<frame>`, by its row of 30_encoding.md R72 and the assembly of R74; none where an operand is out of
range. -/
def TextFrame.toFrame (t : TextFrame) : Option Frame :=
  if t.wellFormed then
    match t with
    | .frame f => some (BitVec.ofNat 32 f)
    | .progEn => frameOf .progEn
    | .readSig n => frameOf (.readSig (BitVec.ofNat 8 n))
    | .readEe a => frameOf (.readEe (BitVec.ofNat 8 a))
    | .writeEe a v => frameOf (.writeEe (BitVec.ofNat 8 a) (BitVec.ofNat 8 v))
    | .readFuseLo => frameOf .readFuseLo
    | .readFuseExt => frameOf .readFuseExt
    | .readFuseHi => frameOf .readFuseHi
    | .writeFuseLo v => frameOf (.writeFuseLo (BitVec.ofNat 8 v))
    | .writeFuseHi v => frameOf (.writeFuseHi (BitVec.ofNat 8 v))
    | .writeFuseExt v => frameOf (.writeFuseExt (BitVec.ofNat 8 v))
    | .chipErase => frameOf .chipErase
    | .readMemLo w => frameOf (.readMemLo (BitVec.ofNat 16 w))
    | .readMemHi w => frameOf (.readMemHi (BitVec.ofNat 16 w))
    | .loadMemLo o v => frameOf (.loadMemLo (BitVec.ofNat 8 o) (BitVec.ofNat 8 v))
    | .loadMemHi o v => frameOf (.loadMemHi (BitVec.ofNat 8 o) (BitVec.ofNat 8 v))
    | .writePage w => frameOf (.writePage (BitVec.ofNat 16 w))
  else none

/-- A `transact` line as a host operation. -/
def transactText (t : TextFrame) : Option Instr := t.toFrame.map Instr.transact

/-- Two operations, the first first. -/
def both (a b : Option Instr) : Option (List Instr) :=
  match a, b with
  | some x, some y => some [x, y]
  | _, _ => none

/-- The host operations a text line stands for (30_encoding.md R81); the pseudo-instructions stand for two each, in the
order R82 gives. -/
def TextLine.expand (l : TextLine) : Option (List Instr) :=
  if l.wellFormed then
    match l with
    | .exchange o => some [.exchange (BitVec.ofNat 8 o)]
    | .transact f => (transactText f).map (fun i => [i])
    | .focus b => some [.focus b]
    | .enterProgMode => some [.enterProgMode]
    | .identify b => some [.identify b]
    | .readParams b => some [.readParams b]
    | .waitMs n => some [.waitMs (BitVec.ofNat 32 n)]
    | .readWord w => both (transactText (.readMemLo w)) (transactText (.readMemHi w))
    | .loadWord o x => both (transactText (.loadMemLo o (x % 256))) (transactText (.loadMemHi o (x / 256)))
    | .reenter b => some [.focus b, .enterProgMode]
  else none

/-- The host words of a text line. -/
def TextLine.assemble (l : TextLine) : Option (List HostWord) := l.expand.map (List.map encode)

/-! ### From characters to a text line -/

/-- The characters `first` to `last` are the digits from `worth` on. -/
def digitFrom (first last : Char) (worth : Nat) (c : Char) : Option Nat :=
  if first ≤ c ∧ c ≤ last then some (worth + (c.toNat - first.toNat)) else none

/-- The value of a decimal digit. -/
def decDigit : Char → Option Nat := digitFrom '0' '9' 0

/-- The value of a hexadecimal digit, in either case. -/
def hexDigit (c : Char) : Option Nat :=
  (decDigit c).or ((digitFrom 'A' 'F' 10 c).or (digitFrom 'a' 'f' 10 c))

/-- The number written by a row of digits, most significant first, after `acc`. -/
def readDigits (base : Nat) (digit : Char → Option Nat) (acc : Nat) : List Char → Option Nat
  | [] => some acc
  | c :: cs =>
    match digit c with
    | none => none
    | some d => readDigits base digit (acc * base + d) cs

/-- "A number is decimal or `0x` hex" (30_encoding.md R81). -/
def readNumber : List Char → Option Nat
  | [] => none
  | ['0', 'x'] => none
  | '0' :: 'x' :: ds => readDigits 16 hexDigit 0 ds
  | c :: cs => readDigits 10 decDigit 0 (c :: cs)

/-- `0xHHHHHHHH`: eight hexadecimal digits (30_encoding.md R81). -/
def readFrameNumber : List Char → Option Nat
  | '0' :: 'x' :: ds => if ds.length = 8 then readDigits 16 hexDigit 0 ds else none
  | _ => none

/-- Put the word begun in front of the words that follow it, where there is one. -/
def closeWord (begun : List Char) (following : List (List Char)) : List (List Char) :=
  match begun with
  | [] => following
  | _ :: _ => begun :: following

/-- The words of a line: parted by blanks, a comma being a word of its own (log 17), after the word begun. -/
def wordsFrom (begun : List Char) : List Char → List (List Char)
  | [] => closeWord begun []
  | ' ' :: line => closeWord begun (wordsFrom [] line)
  | ',' :: line => closeWord begun ([','] :: wordsFrom [] line)
  | c :: line => wordsFrom (begun ++ [c]) line

/-- The word is the keyword `k`. -/
def isWord (w : List Char) (k : String) : Bool := w == k.toList

/-- A `<frame>` without operands, by its keyword. -/
def readFrame0 (m : List Char) : Option TextFrame :=
  if isWord m "prog_en" then some .progEn
  else if isWord m "read_fuse_lo" then some .readFuseLo
  else if isWord m "read_fuse_ext" then some .readFuseExt
  else if isWord m "read_fuse_hi" then some .readFuseHi
  else if isWord m "chip_erase" then some .chipErase
  else none

/-- A `<frame>` with one operand. -/
def readFrame1 (m : List Char) (n : Nat) : Option TextFrame :=
  if isWord m "read_sig" then some (.readSig n)
  else if isWord m "read_ee" then some (.readEe n)
  else if isWord m "write_fuse_lo" then some (.writeFuseLo n)
  else if isWord m "write_fuse_hi" then some (.writeFuseHi n)
  else if isWord m "write_fuse_ext" then some (.writeFuseExt n)
  else if isWord m "read_mem_lo" then some (.readMemLo n)
  else if isWord m "read_mem_hi" then some (.readMemHi n)
  else if isWord m "write_page" then some (.writePage n)
  else none

/-- A `<frame>` with two operands. -/
def readFrame2 (m : List Char) (a b : Nat) : Option TextFrame :=
  if isWord m "write_ee" then some (.writeEe a b)
  else if isWord m "load_mem_lo" then some (.loadMemLo a b)
  else if isWord m "load_mem_hi" then some (.loadMemHi a b)
  else none

/-- A `<frame>` (30_encoding.md R81). -/
def readFrame : List (List Char) → Option TextFrame
  | [m] => readFrame0 m
  | [m, a] => if isWord m "frame" then (readFrameNumber a).map .frame else (readNumber a).bind (readFrame1 m)
  | [m, a, c, b] =>
    if isWord c "," then (readNumber a).bind (fun x => (readNumber b).bind (readFrame2 m x)) else none
  | _ => none

/-- `socket|bus`. -/
def readPort (w : List Char) : Option Port :=
  if isWord w "socket" then some .socket else if isWord w "bus" then some .bus else none

/-- The line of a list of words, before the range check. -/
def readWords : List (List Char) → Option TextLine
  | [] => none
  | m :: rest =>
    if isWord m "transact" then (readFrame rest).map .transact
    else
      match rest with
      | [] => if isWord m "enter_prog_mode" then some .enterProgMode else none
      | [a] =>
        if isWord m "exchange" then (readNumber a).map .exchange
        else if isWord m "wait_ms" then (readNumber a).map .waitMs
        else if isWord m "read_word" then (readNumber a).map .readWord
        else if isWord m "focus" then (readPort a).map .focus
        else if isWord m "identify" then (readPort a).map .identify
        else if isWord m "read_params" then (readPort a).map .readParams
        else if isWord m "reenter" then (readPort a).map .reenter
        else none
      | [a, c, b] =>
        if isWord m "load_word" && isWord c "," then
          (readNumber a).bind (fun x => (readNumber b).map (TextLine.loadWord x))
        else none
      | _ => none

/-- The text reader (30_encoding.md R81): "any other value is refused by the text reader, never wrapped". -/
def readLine (cs : List Char) : Option TextLine :=
  (readWords (wordsFrom [] cs)).filter TextLine.wellFormed

end Sys2Proof
end

