-- ==== Sys2Proof/Safety.lean ====
section
/-! DEFINITION. The terms claims are stated in: what counts as a safe run, the invariant of the machine, and how to read
the line record of an operation (levels, edges, samples, durations). -/

namespace Sys2Proof.Machine

/-- "Every claim about a run takes 'FAULTS is empty at the end' as a premise" (60_exceptions.md R217). -/
def State.faultFree (s : State) : Bool := s.faults.isEmpty

/-! ### Reading the line record -/

/-- The levels an operation drove onto one line, in time order. -/
def levelsOn (x : Config.PhysLine) (w : List LineEvent) : List Level :=
  w.filterMap fun
    | .drive y v => if y = x then some v else none
    | _ => none

/-- The levels sampled on a port's DIN, in time order. -/
def samplesOn (p : Port) (w : List LineEvent) : List Bool :=
  w.filterMap fun
    | .sample q v => if q = p then some v else none
    | _ => none

/-- How often a row of levels goes from `a` to `b`. -/
def edges (a b : Level) : List Level → Nat
  | [] => 0
  | [_] => 0
  | x :: y :: rest => (if x = a ∧ y = b then 1 else 0) + edges a b (y :: rest)

/-- Rising edges of a line that stands at `before` when the record begins. -/
def rises (before : Level) (x : Config.PhysLine) (w : List LineEvent) : Nat := edges .low .high (before :: levelsOn x w)

/-- Falling edges of a line that stands at `before` when the record begins. -/
def falls (before : Level) (x : Config.PhysLine) (w : List LineEvent) : Nat := edges .high .low (before :: levelsOn x w)

/-- The ports whose lines the record touches. -/
def portsTouched (w : List LineEvent) : List Port :=
  w.filterMap fun
    | .drive y _ => some y.port
    | .release y => some y.port
    | .sample p _ => some p
    | _ => none

/-- The least time the recorded waits take, in µs (70_reset_and_hazards.md R240). -/
def micros (w : List LineEvent) : Nat :=
  (w.map fun
    | .delayUs n => n
    | .delayMs n => 1000 * n
    | _ => 0).sum

/-- The actions of one bit of an EXCHANGE on port p: clock low, set up, wait, rising edge, sample, wait (40_bit_channel.md
R100). -/
def bitWave (p : Port) (tHalf : Nat) (out inp : Bool) : List LineEvent :=
  [ .drive ⟨p, .clk⟩ .low, .drive ⟨p, .dout⟩ (levelOf out), .delayUs tHalf, .drive ⟨p, .clk⟩ .high, .sample p inp,
    .delayUs tHalf ]

/-- The actions of one SHIFT8 on port p: the eight bits, bit 7 first, then the clock low (40_bit_channel.md R100). -/
def byteWave (p : Port) (tHalf : Nat) (out inp : Byte) : List LineEvent :=
  ((wireBits out).zip (wireBits inp)).flatMap (fun b => bitWave p tHalf b.1 b.2) ++ [.drive ⟨p, .clk⟩ .low]

/-- The actions of one frame exchange on port p: four bytes, B0 first (41_framer.md R120). -/
def frameWave (p : Port) (tHalf : Nat) (out inp : Frame) : List LineEvent :=
  byteWave p tHalf (frameB0 out) (frameB0 inp) ++ byteWave p tHalf (frameB1 out) (frameB1 inp) ++
    byteWave p tHalf (frameB2 out) (frameB2 inp) ++ byteWave p tHalf (frameB3 out) (frameB3 inp)

/-- SPI mode 0 over the line record of port p (40_bit_channel.md R101), scanned in time order from the CLK level `clk` (true =
high): DOUT changes only while CLK is low; CLK rises only with at least `tHalf` µs waited since DOUT was last driven; DIN is
sampled exactly once per rising edge, while CLK is high, before CLK falls. `waited` is the time since DOUT was last driven,
`sampled` whether DIN was sampled since CLK last rose. -/
def modeZero (p : Port) (tHalf : Nat) (clk : Bool) (waited : Nat) (sampled : Bool) : List LineEvent → Bool
  | [] => !clk
  | .drive x v :: rest =>
    if x = ⟨p, .dout⟩ then !clk && modeZero p tHalf clk 0 sampled rest
    else if x = ⟨p, .clk⟩ then
      match clk, v with
      | false, .low => modeZero p tHalf false waited sampled rest
      | false, .high => decide (tHalf ≤ waited) && modeZero p tHalf true waited false rest
      | true, .low => sampled && modeZero p tHalf false waited sampled rest
      | true, .high => modeZero p tHalf true waited sampled rest
      | _, .unspecified => false
    else modeZero p tHalf clk waited sampled rest
  | .sample q _ :: rest =>
    if q = p then clk && !sampled && modeZero p tHalf clk waited true rest else modeZero p tHalf clk waited sampled rest
  | .delayUs n :: rest => modeZero p tHalf clk (waited + n) sampled rest
  | .delayMs n :: rest => modeZero p tHalf clk (waited + 1000 * n) sampled rest
  | .release _ :: rest => modeZero p tHalf clk waited sampled rest

/-- The actions of the RST strobe of ENTER_PROG_MODE on port p: low, idle, active, then the settle delay
(42_multiplexer.md R171). -/
def strobeWave (p : Port) (k : Config.Params) : List LineEvent :=
  [ .drive ⟨p, .rst⟩ .low, .delayUs k.tRstAUs, .drive ⟨p, .rst⟩ .high, .delayUs k.tRstBUs, .drive ⟨p, .rst⟩ .low,
    .delayUs k.tProgSettleUs ]

/-- The release of port q's three driven lines (42_multiplexer.md R170). -/
def releaseWave (q : Port) : List LineEvent := [ .release ⟨q, .rst⟩, .release ⟨q, .clk⟩, .release ⟨q, .dout⟩ ]

/-- The actions that bind port b and idle it (42_multiplexer.md R170), in the order of the pseudocode (log 15). -/
def bindWave (b : Port) : List LineEvent :=
  [ .release ⟨b, .din⟩, .drive ⟨b, .clk⟩ .low, .drive ⟨b, .rst⟩ .high, .drive ⟨b, .dout⟩ .unspecified ]

/-- The actions of FOCUS b (42_multiplexer.md R170) from a state whose FOCUS and parameters are given: under RELEASE the port
focused before, where there is one and it is not b, is released first. -/
def focusWave (b : Port) (old : Option Port) (k : Config.Params) : List LineEvent :=
  (match old with
    | none => []
    | some q => if k.unfocusedLines = .release ∧ q ≠ b then releaseWave q else []) ++ bindWave b

/-! ### Runs and received bytes -/

/-- Perform operations one after another (20_memory.md R59); `none` where the machine itself stops. -/
def execAll : List Instr → State → Option State
  | [], s => some s
  | i :: rest, s =>
    match exec i s with
    | .next t => execAll rest t
    | .fault _ => none
    | .refused _ => none

/-- The k-th byte received on port p in a line record: samples 8k to 8k + 7, the first sample bit 7 (40_bit_channel.md R103). -/
def receivedByte (p : Port) (w : List LineEvent) (k : Nat) : Byte :=
  byteOfSamples (((samplesOn p w).drop (8 * k)).take 8)

/-! ### Which faults apply -/

/-- The frame an instruction sends as a TRANSACT: that of TRANSACT itself, or of an ISP frame. -/
def frameSent : Instr → Option Frame
  | .transact f => some f
  | i => frameOf i

/-- Operations that need a focused port (60_exceptions.md R212); an ISP frame is a TRANSACT. -/
def needsFocus : Instr → Bool
  | .focus _ | .identify _ | .readParams _ | .waitMs _ => false
  | _ => true

/-- Operations that would drive a line (60_exceptions.md R215); an ISP frame is a TRANSACT. -/
def drivesLines : Instr → Bool
  | .readParams _ | .waitMs _ => false
  | _ => true

/-- The cause of each fault, from the table of 60_exceptions.md R211, for an operation whose word is legal. -/
def faultApplies (i : Instr) (s : State) : FaultCode → Prop
  | .badReq => False
  | .noFocus => needsFocus i = true ∧ s.focus = none
  | .settle => drivesLines i = true ∧ ∃ q, 0 < (s.port q).settle
  | .misaligned => ∃ f p, frameSent i = some f ∧ s.focus = some p ∧ (s.port p).framePhase ≠ 0
  | .unlisted => ∃ f, frameSent i = some f ∧ ∀ c, decodeFrame f ≠ .ok c
  | .notEnabled => ∃ f p c, frameSent i = some f ∧ s.focus = some p ∧ decodeFrame f = .ok c ∧
      modeOk c (s.port p).mode = false
  | .unidentified => ∃ b, i = .readParams b ∧ (s.port b).written = false

/-! ### Words, wire and reset, in the spec's own terms -/

/-- The reserved host words of 30_encoding.md R78, by the arithmetic of R76, `W = D*2^8 + b*2^4 + op` with rsv in bits 7..5. -/
def reservedWord (n : Nat) : Prop :=
  n % 16 = 0 ∨ 8 ≤ n % 16 ∨ n / 32 % 8 ≠ 0 ∨
    (n / 16 % 2 = 1 ∧ (n % 16 = 1 ∨ n % 16 = 2 ∨ n % 16 = 4 ∨ n % 16 = 7)) ∨
    (n % 16 = 1 ∧ 256 ≤ n / 256) ∨ ((n % 16 = 3 ∨ n % 16 = 4 ∨ n % 16 = 5 ∨ n % 16 = 6) ∧ n / 256 ≠ 0)

/-- The host word of TRANSACT of the frame of number f: `W = D*2^8 + b*2^4 + op` with D = f and op = 2 (30_encoding.md R76). -/
def frameWord (f : Nat) : HostWord := BitVec.ofNat 40 (f * 2 ^ 8 + 2)

/-- The number of a binding in the host word (30_encoding.md R76). -/
def bindingNumber : Port → Nat
  | .socket => 0
  | .bus => 1

/-- How many bits an operation puts on the wire (30_encoding.md R80). -/
def wireLength : Instr → Nat
  | .exchange _ => 8
  | .identify _ => 128
  | .focus _ | .readParams _ | .waitMs _ => 0
  | _ => 32

/-- The reset values 70_reset_and_hazards.md R230 gives. -/
structure AtReset (s : State) : Prop where
  focus : s.focus = none
  lines : ∀ q, (s.port q).rst.dir = .input ∧ (s.port q).clk.dir = .input ∧ (s.port q).dout.dir = .input ∧
    (s.port q).din.dir = .input
  busy : s.busy = false
  written : ∀ q, (s.port q).written = false
  mode : ∀ q, (s.port q).mode = .unknown
  framePhase : ∀ q, (s.port q).framePhase = 0
  settle : ∀ q, (s.port q).settle = 0
  faults : s.faults = []

/-! ### What each operation does, and what it leaves -/

/-- What no operation that runs in full changes, and BUSY = 0 at its end (30_encoding.md R77). -/
structure Aside (s t : State) : Prop where
  idle : t.busy = false
  faults : t.faults = s.faults
  params : t.params = s.params
  requests : t.requests = s.requests
  resets : t.resets = s.resets

/-- What a fault leaves: RESULT and FAULTS are written, BUSY is 0, no line was touched, and the rest is as before
(60_exceptions.md R219). -/
structure Faulted (c : FaultCode) (s t : State) : Prop where
  result : t.result = ⟨.fault, some c, .none⟩
  faults : ∀ d, d ∈ t.faults ↔ d = c ∨ d ∈ s.faults
  idle : t.busy = false
  wave : t.waveform = []
  focus : t.focus = s.focus
  ports : ∀ q, t.port q = s.port q
  params : t.params = s.params
  requests : t.requests = s.requests
  resets : t.resets = s.resets

/-- EXCHANGE of `out` on port p, `inp` received (40_bit_channel.md R100; the lines after it R104, which the spec infers from
R100). -/
structure Exchanged (p : Port) (out inp : Byte) (s t : State) : Prop extends Aside s t where
  result : t.result = .done (.byte inp)
  wave : t.waveform = byteWave p s.params.tHalfUs out inp
  focus : t.focus = s.focus
  other : t.port p.other = s.port p.other
  rst : (t.port p).rst = (s.port p).rst
  clk : (t.port p).clk = ⟨.output, .low⟩
  dout : (t.port p).dout = ⟨.output, levelOf (out.getLsbD 0)⟩
  din : (t.port p).din = (s.port p).din
  chip : (t.port p).chip = (s.port p).chip
  written : (t.port p).written = (s.port p).written
  mode : (t.port p).mode = (s.port p).mode
  framePhase : (t.port p).framePhase = (s.port p).framePhase + 1
  settle : (t.port p).settle = (s.port p).settle

/-- TRANSACT of frame f on port p, frame r received, PORT_MODE left at `m` and `owed` ms of settle owed (41_framer.md
R120). -/
structure Sent (p : Port) (f r : Frame) (m : PortMode) (owed : Nat) (s t : State) : Prop extends Aside s t where
  result : t.result = .done (.frame r)
  wave : t.waveform = frameWave p s.params.tHalfUs f r
  focus : t.focus = s.focus
  other : t.port p.other = s.port p.other
  rst : (t.port p).rst = (s.port p).rst
  clk : (t.port p).clk = ⟨.output, .low⟩
  dout : (t.port p).dout = ⟨.output, levelOf (f.getLsbD 0)⟩
  din : (t.port p).din = (s.port p).din
  chip : (t.port p).chip = (s.port p).chip
  written : (t.port p).written = (s.port p).written
  mode : (t.port p).mode = m
  framePhase : (t.port p).framePhase = (s.port p).framePhase
  settle : (t.port p).settle = owed

/-- A port whose three driven lines were released (42_multiplexer.md R170). -/
def PortState.released (v : PortState) : PortState :=
  { v with rst := ⟨.input, v.rst.lvl⟩, clk := ⟨.input, v.clk.lvl⟩, dout := ⟨.input, v.dout.lvl⟩ }

/-- FOCUS b releases the other port: under RELEASE, where it was the one focused (42_multiplexer.md R170). -/
abbrev releasesOther (b : Port) (s : State) : Prop := s.focus = some b.other ∧ s.params.unfocusedLines = .release

/-- The other port after FOCUS b: released where `releasesOther`, else as it was; what is attached stays (log 8). -/
def otherAfterFocus (b : Port) (s : State) : PortState :=
  if releasesOther b s then (s.port b.other).released else s.port b.other

/-- FOCUS b (42_multiplexer.md R170); `wave` has the order of log 15, `other` the released levels of log 11 and
the released target of log 8. -/
structure Focused (b : Port) (s t : State) : Prop extends Aside s t where
  result : t.result = .done .none
  wave : t.waveform = focusWave b s.focus s.params
  focus : t.focus = some b
  other : t.port b.other = otherAfterFocus b s
  rst : (t.port b).rst = ⟨.output, .high⟩
  clk : (t.port b).clk = ⟨.output, .low⟩
  dout : (t.port b).dout = ⟨.output, .unspecified⟩
  din : (t.port b).din.dir = .input
  chip : (t.port b).chip = (s.port b).chip
  written : (t.port b).written = (s.port b).written
  mode : (t.port b).mode = .idle
  framePhase : (t.port b).framePhase = 0
  settle : (t.port b).settle = (s.port b).settle

/-- ENTER_PROG_MODE on port p, frame r received for the programming-enable frame (42_multiplexer.md R171). -/
structure Entered (p : Port) (r : Frame) (s t : State) : Prop extends Aside s t where
  result : t.result = .done (.byte (r.extractLsb' 8 8))
  wave : t.waveform = strobeWave p s.params ++ frameWave p s.params.tHalfUs 0xAC530000 r
  focus : t.focus = s.focus
  other : t.port p.other = s.port p.other
  rst : (t.port p).rst = ⟨.output, .low⟩
  clk : (t.port p).clk = ⟨.output, .low⟩
  dout : (t.port p).dout = ⟨.output, .low⟩
  din : (t.port p).din = (s.port p).din
  chip : (t.port p).chip = (s.port p).chip
  written : (t.port p).written = (s.port p).written
  mode : (t.port p).mode = .enableSent
  framePhase : (t.port p).framePhase = 0
  settle : (t.port p).settle = 0

/-- The signature of the three R3 bytes of READ_SIG 0, 1, 2: `zext_24(S0) + (S1 << 8) + (S2 << 16)` (43_identifier.md
R191). -/
def sigOf (s0 s1 s2 : Byte) : Sig := s0.setWidth 24 + s1.setWidth 24 <<< 8 + s2.setWidth 24 <<< 16

/-- IDENTIFY b, frame r0 received for PROG_EN and r1, r2, r3 for READ_SIG 0, 1, 2, the table row found being `found`
(43_identifier.md R190, R193). -/
structure Identified (b : Port) (r0 r1 r2 r3 : Frame) (found : Option Config.DeviceParams) (s t : State) : Prop
    extends Aside s t where
  result : t.result = found.elim ⟨.absent, none, .none⟩ (fun row => ⟨.ok, none, .params row⟩)
  wave : t.waveform = focusWave b s.focus s.params ++ strobeWave b s.params ++
    frameWave b s.params.tHalfUs 0xAC530000 r0 ++ frameWave b s.params.tHalfUs 0x30000000 r1 ++
      frameWave b s.params.tHalfUs 0x30000100 r2 ++ frameWave b s.params.tHalfUs 0x30000200 r3
  focus : t.focus = some b
  other : t.port b.other = otherAfterFocus b s
  rst : (t.port b).rst = ⟨.output, .low⟩
  clk : (t.port b).clk = ⟨.output, .low⟩
  dout : (t.port b).dout = ⟨.output, .low⟩
  din : (t.port b).din.dir = .input
  chip : (t.port b).chip = found.getD (s.port b).chip
  written : (t.port b).written = (found.isSome || (s.port b).written)
  mode : (t.port b).mode = .enableSent
  framePhase : (t.port b).framePhase = 0
  settle : (t.port b).settle = 0

/-- READ_PARAMS b (43_identifier.md R194). -/
structure ParamsRead (b : Port) (s t : State) : Prop extends Aside s t where
  result : t.result = .done (.params (s.port b).chip)
  wave : t.waveform = []
  focus : t.focus = s.focus
  ports : ∀ q, t.port q = s.port q

/-- WAIT_MS n (41_framer.md R140). -/
structure Waited (n : BitVec 32) (s t : State) : Prop extends Aside s t where
  result : t.result = .done .none
  wave : t.waveform = [.delayMs n.toNat]
  focus : t.focus = s.focus
  ports : ∀ q, t.port q = { s.port q with settle := (t.port q).settle }
  settle : ∀ q, ((t.port q).settle : Int) = max 0 (((s.port q).settle : Int) - (n.toNat : Int))

/-- A port enabled and ready for any listed frame: focused, nothing owed, aligned, PORT_MODE ENABLE_SENT (41_framer.md
R120, R122). -/
structure Ready (p : Port) (s : State) : Prop where
  focus : s.focus = some p
  settled : ∀ q, (s.port q).settle = 0
  aligned : (s.port p).framePhase = 0
  enabled : (s.port p).mode = .enableSent

/-! ### What stays -/

/-- What shifting bytes on port p leaves alone: all but port p's CLK, DOUT and attachment, the scratch registers, the draw
number and the line record. -/
structure KeptByShift (p : Port) (s t : State) : Prop where
  focus : t.focus = s.focus
  busy : t.busy = s.busy
  result : t.result = s.result
  faults : t.faults = s.faults
  params : t.params = s.params
  requests : t.requests = s.requests
  resets : t.resets = s.resets
  free : t.free = s.free
  other : t.port p.other = s.port p.other
  rst : (t.port p).rst = (s.port p).rst
  din : (t.port p).din = (s.port p).din
  chip : (t.port p).chip = (s.port p).chip
  written : (t.port p).written = (s.port p).written
  mode : (t.port p).mode = (s.port p).mode
  framePhase : (t.port p).framePhase = (s.port p).framePhase
  settle : (t.port p).settle = (s.port p).settle

/-! ### The invariant -/

/-- What a port that is focused shows between operations (10_state.md R27), and the RST level that belongs to its PORT_MODE
(R35, 42_multiplexer.md R171). -/
def PortState.driven (v : PortState) : Bool :=
  v.rst.dir == .output && v.clk == ⟨.output, .low⟩ && v.dout.dir == .output &&
    (match v.mode with
      | .idle => v.rst.lvl == .high
      | .enableSent => v.rst.lvl == .low
      | .unknown => false
      | .resetActive => false)

/-- What every port keeps: DIN is never an output (10_state.md R25); between operations PORT_MODE is not RESET_ACTIVE
(R35); a Chip Record that was written is a row of SIGTAB (R33); a port that owes a settle is at FRAME_PHASE 0 with
PORT_MODE ENABLE_SENT (95_test_vectors.md section 3.7). -/
def PortState.sound (v : PortState) : Bool :=
  v.din.dir == .input && v.mode != .resetActive && (!v.written || Config.sigTab.contains v.chip) &&
    (v.settle == 0 || (v.framePhase == 0 && v.mode == .enableSent))

/-- A reference target's memories are in canonical form. -/
abbrev Attached.wf : Attached → Prop
  | .env _ => True
  | .stuck _ => True
  | .loop => True
  | .chip t => t.wf

/-- The invariant of the machine between operations: BUSY = 0; the focused port is driven as R27 says; both ports are
sound; a port that owes a settle is the focused one (10_state.md R37, 95_test_vectors.md section 3.7); a port never
focused is untouched; FAULTS is in its form. -/
structure State.Inv (s : State) : Prop where
  idle : s.busy = false
  driven : ∀ p, s.focus = some p → (s.port p).driven = true
  sound : ∀ p, (s.port p).sound = true
  settleFocused : ∀ p, 0 < (s.port p).settle → s.focus = some p
  untouched : ∀ p, (s.port p).mode = .unknown → (s.port p).rst = .undriven ∧ (s.port p).clk = .undriven ∧
    (s.port p).dout = .undriven
  faultsForm : faultsWf s.faults
  memories : ∀ p, (s.port p).attached.wf

end Sys2Proof.Machine
end

