-- ==== Sys2Proof/Certificates/Slice0/Obligations.lean ====
section
/-! DEFINITION. The statements for the provers, each from the rules of spec/ it names: encodings, one step, reset, every
instruction's completion with its frame, the fault rules, the line waveforms, and the invariant. -/

open Sys2Proof Sys2Proof.Machine

/-! ### Encodings -/

/-- Words written out from the tables of 30_encoding.md R72 and R76 decode to the instructions they stand for
(95_test_vectors.md W4 and V47 to V53). A sanity statement. -/
def Obligations.WrittenWordsDecode : Prop :=
  decodeTableWord 32 0xAC530000 = some .progEn ∧
  decodeTableWord 32 0x30000200 = some (.readSig 2) ∧
  decodeTableWord 32 0xC000105A = some (.writeEe 0x10 0x5A) ∧
  decodeTableWord 32 0x50080000 = some .readFuseExt ∧
  decodeTableWord 32 0xACA400FF = some (.writeFuseExt 0xFF) ∧
  decodeTableWord 32 0x28012300 = some (.readMemHi 0x0123) ∧
  decodeTableWord 32 0x4C002000 = some (.writePage 0x0020) ∧
  decodeTableWord 40 0x000000A501 = some (.exchange 0xA5) ∧
  decodeTableWord 40 0xAC53000002 = some (.transact 0xAC530000) ∧
  decodeTableWord 40 0x0000000013 = some (.focus .bus) ∧
  decodeTableWord 40 0x0000000005 = some (.identify .socket) ∧
  decodeTableWord 40 0xFFFFFFFF07 = some (.waitMs 0xFFFFFFFF)

/-- Decoding what was encoded gives the instruction back, for every instruction and every operand: in its own row's word,
and in the host word that carries it (an ISP frame as the TRANSACT of its frame). -/
def Obligations.DecodeEncode : Prop :=
  ∀ i : Instr, decodeTableWord i.bits (encodeTableWord i) = some i ∧
    (i.isHostOp = true → decodeHost (encode i) = .ok i) ∧
    (∀ f, frameOf i = some f → decodeFrame f = .ok i ∧ decodeHost (encode i) = .ok (.transact f))

/-- Each instruction has one word: what decodes to it is what encodes it (no bit of a word is ignored). -/
def Obligations.EncodeDecode : Prop :=
  ∀ (n w : Nat) (i : Instr), decodeTableWord n w = some i → n = i.bits ∧ encodeTableWord i = w

/-- "No two rows match one frame" (which the spec infers, in 30_encoding.md R72, from the rows of opcode_table.json), and
the decoder reads a word as the one row of opcode_table.json it matches, or as none where it matches none; the same of the
seven host rows. -/
def Obligations.OneRowPerWord : Prop :=
  (∀ w : Nat, w < 2 ^ 32 → (frameRows.filter (fun r => r.matches w)).map (fun r => r.mnemonic) =
    ((decodeTableWord 32 w).map Instr.mnemonic).toList) ∧
  (∀ w : Nat, w < 2 ^ 40 → (hostRows.filter (fun r => r.matches w)).map (fun r => r.mnemonic) =
    ((decodeTableWord 40 w).map Instr.mnemonic).toList)

/-- Exactly the reserved words are refused, with `F_BAD_REQ`, and nothing but RESULT and FAULTS changes (30_encoding.md R78,
60_exceptions.md R213). -/
def Obligations.ReservedWordsRefused : Prop :=
  ∀ w : HostWord, (reservedWord w.toNat ↔ ∀ i, decodeHost w ≠ .ok i) ∧
    ∀ (s : State) (rest : List HostWord), reservedWord w.toNat → s.busy = false → s.requests = w :: rest →
      s.resetDue = none → ∃ t, step s = .next t ∧ Faulted .badReq { s.passReset with requests := rest } t

/-! ### The text syntax -/

/-- The pseudo-instructions expand to the lines 30_encoding.md R82 shows, in that order, for every operand in range; out of
range they are refused. -/
def Obligations.PseudoInstructionsExpand : Prop :=
  (∀ w, w < 65536 → (TextLine.readWord w).expand =
    both (transactText (.readMemLo w)) (transactText (.readMemHi w)) ∧
      (TextLine.readWord w).assemble = some [transactWord (packFrame 0x20 (BitVec.ofNat 8 (w / 256)) (BitVec.ofNat 8 w) 0),
        transactWord (packFrame 0x28 (BitVec.ofNat 8 (w / 256)) (BitVec.ofNat 8 w) 0)]) ∧
  (∀ o x, o < 256 → x < 65536 → (TextLine.loadWord o x).expand =
    both (transactText (.loadMemLo o (x % 256))) (transactText (.loadMemHi o (x / 256))) ∧
      (TextLine.loadWord o x).assemble = some [transactWord (packFrame 0x40 0 (BitVec.ofNat 8 o) (BitVec.ofNat 8 x)),
        transactWord (packFrame 0x48 0 (BitVec.ofNat 8 o) (BitVec.ofNat 8 (x / 256)))]) ∧
  (∀ b, (TextLine.reenter b).expand = some [.focus b, .enterProgMode]) ∧
  (∀ w, 65536 ≤ w → (TextLine.readWord w).expand = none) ∧
  (∀ o x, 256 ≤ o ∨ 65536 ≤ x → (TextLine.loadWord o x).expand = none)

/-- Each line of 30_encoding.md R81 and R82 assembles to its host word or words (R72, R76) where its operands are in range
(0..255, 0..65535, 32 bits), and to nothing where they are not, "never wrapped"; what the text reader gives assembles; and
each operation a line stands for is the one its word decodes to. -/
def Obligations.TextRefusesOutOfRange : Prop :=
  ((∀ n, (TextLine.exchange n).assemble = if n ≤ 255 then some [BitVec.ofNat 40 (n * 2 ^ 8 + 1)] else none) ∧
    (∀ b, (TextLine.focus b).assemble = some [BitVec.ofNat 40 (bindingNumber b * 2 ^ 4 + 3)]) ∧
    TextLine.enterProgMode.assemble = some [4] ∧
    (∀ b, (TextLine.identify b).assemble = some [BitVec.ofNat 40 (bindingNumber b * 2 ^ 4 + 5)]) ∧
    (∀ b, (TextLine.readParams b).assemble = some [BitVec.ofNat 40 (bindingNumber b * 2 ^ 4 + 6)]) ∧
    (∀ n, (TextLine.waitMs n).assemble = if n < 2 ^ 32 then some [BitVec.ofNat 40 (n * 2 ^ 8 + 7)] else none) ∧
    (∀ w, (TextLine.readWord w).assemble =
      if w ≤ 65535 then some [frameWord (0x20000000 + w * 2 ^ 8), frameWord (0x28000000 + w * 2 ^ 8)] else none) ∧
    (∀ o x, (TextLine.loadWord o x).assemble =
      if o ≤ 255 ∧ x ≤ 65535 then
        some [frameWord (0x40000000 + o * 2 ^ 8 + x % 256), frameWord (0x48000000 + o * 2 ^ 8 + x / 256)] else none) ∧
    ∀ b, (TextLine.reenter b).assemble = some [BitVec.ofNat 40 (bindingNumber b * 2 ^ 4 + 3), 4]) ∧
  ((∀ f, (TextLine.transact (.frame f)).assemble = if f < 2 ^ 32 then some [frameWord f] else none) ∧
    (TextLine.transact .progEn).assemble = some [0xAC53000002] ∧
    (∀ n, (TextLine.transact (.readSig n)).assemble =
      if n ≤ 255 then some [frameWord (0x30000000 + n * 2 ^ 8)] else none) ∧
    (∀ a, (TextLine.transact (.readEe a)).assemble =
      if a ≤ 255 then some [frameWord (0xA0000000 + a * 2 ^ 8)] else none) ∧
    (∀ a v, (TextLine.transact (.writeEe a v)).assemble =
      if a ≤ 255 ∧ v ≤ 255 then some [frameWord (0xC0000000 + a * 2 ^ 8 + v)] else none) ∧
    (TextLine.transact .readFuseLo).assemble = some [0x5000000002] ∧
    (TextLine.transact .readFuseExt).assemble = some [0x5008000002] ∧
    (TextLine.transact .readFuseHi).assemble = some [0x5808000002] ∧
    (∀ v, (TextLine.transact (.writeFuseLo v)).assemble = if v ≤ 255 then some [frameWord (0xACA00000 + v)] else none) ∧
    (∀ v, (TextLine.transact (.writeFuseHi v)).assemble = if v ≤ 255 then some [frameWord (0xACA80000 + v)] else none) ∧
    (∀ v, (TextLine.transact (.writeFuseExt v)).assemble = if v ≤ 255 then some [frameWord (0xACA40000 + v)] else none) ∧
    (TextLine.transact .chipErase).assemble = some [0xAC80000002] ∧
    (∀ w, (TextLine.transact (.readMemLo w)).assemble =
      if w ≤ 65535 then some [frameWord (0x20000000 + w * 2 ^ 8)] else none) ∧
    (∀ w, (TextLine.transact (.readMemHi w)).assemble =
      if w ≤ 65535 then some [frameWord (0x28000000 + w * 2 ^ 8)] else none) ∧
    (∀ o v, (TextLine.transact (.loadMemLo o v)).assemble =
      if o ≤ 255 ∧ v ≤ 255 then some [frameWord (0x40000000 + o * 2 ^ 8 + v)] else none) ∧
    (∀ o v, (TextLine.transact (.loadMemHi o v)).assemble =
      if o ≤ 255 ∧ v ≤ 255 then some [frameWord (0x48000000 + o * 2 ^ 8 + v)] else none) ∧
    ∀ w, (TextLine.transact (.writePage w)).assemble =
      if w ≤ 65535 then some [frameWord (0x4C000000 + w * 2 ^ 8)] else none) ∧
  (∀ cs l, readLine cs = some l → ∃ ws, l.assemble = some ws) ∧
  ∀ (l : TextLine) (ops : List Instr), l.expand = some ops → l.assemble = some (ops.map encode) ∧
    ∀ i ∈ ops, decodeHost (encode i) = .ok i

/-! ### Steps and reset -/

/-- One step performs the operation the host presents: that of a legal word, and by a TRANSACT word of a listed frame the
meaning of that ISP frame (30_encoding.md R77, 20_memory.md R59). -/
def Obligations.StepRunsPresentedWord : Prop :=
  ∀ (s : State) (w : HostWord) (rest : List HostWord), s.busy = false → s.requests = w :: rest → s.resetDue = none →
    (∀ i, decodeHost w = .ok i → step s = exec i { s.passReset with requests := rest }) ∧
    (∀ f c, w = transactWord f → decodeFrame f = .ok c → step s = exec c { s.passReset with requests := rest })

/-- The block's own action for each ISP command is the TRANSACT of its frame (41_framer.md, opening text; R120). -/
def Obligations.CommandIsItsTransact : Prop :=
  ∀ (c : Instr) (f : Frame), frameOf c = some f → ∀ s : State, exec c s = exec (.transact f) s

/-- The machine stops nowhere but where a host breaks R77 by presenting a word while BUSY = 1, which the spec leaves without
a move (R238; the model's choice, log 12); it never refuses, and with no word presented and no reset due it waits (log 1,
log 24). -/
def Obligations.StepStopsOnlyOnHostBreach : Prop :=
  ∀ s : State, (∀ r, step s ≠ .refused r) ∧
    (∀ f, step s = .fault f ↔ f = .requestWhileBusy ∧ s.busy = true ∧ s.requests ≠ []) ∧
    (s.requests = [] → s.resetDue = none → step s = .next s.passReset)

/-- Reset puts every piece of state at the value R230 gives, from power-on and of a running block, by a step as well, and
the block accepts any host word as soon as reset ends. -/
def Obligations.ResetState : Prop :=
  AtReset State.reset ∧ (∀ s, AtReset (blockReset s)) ∧
    (∀ s t : State, step s = .next t → s.resetDue ≠ none → AtReset t) ∧
    (∀ w, ∃ t, step (State.reset.present w) = .next t) ∧ (∀ s w, ∃ t, step ((blockReset s).present w) = .next t)

/-- A reset of the block leaves what is attached to each port as it was (70_reset_and_hazards.md R231), and until the next
FOCUS or IDENTIFY no operation drives a line or reaches a target (R232, R233). A reset that lands after k line actions of an
operation (log 24) leaves just those done, all of them where the operation has no more; and one that lands after m bytes of
a TRANSACT leaves "the target's framing ... partway" (20_memory.md R56, which the spec infers from R36 and R230), the
reference target of log 8 with m bytes of its frame. A byte is 49 actions: six a bit, and CLK low at the
end. Inside a FOCUS the actions come in the model's order (log 15). -/
def Obligations.NothingReachedBeforeFocus : Prop :=
  (∀ (s t : State) (l : List Instr), (∀ i ∈ l, ∀ b, i ≠ .focus b ∧ i ≠ .identify b) →
    execAll l (blockReset s) = some t →
      t.focus = none ∧ ∀ q, (t.port q).attached = (s.port q).attached ∧ (t.port q).rst.dir = .input ∧
        (t.port q).clk.dir = .input ∧ (t.port q).dout.dir = .input ∧ (t.port q).din.dir = .input) ∧
  (∀ (s : State) (w : HostWord) (rest : List HostWord) (k : Nat), s.busy = false → s.requests = w :: rest →
    s.resetDue = some k → ∃ t u, step s = .next t ∧ perform w { s.passReset with requests := rest } = .next u ∧ AtReset t ∧
      t.requests = rest ∧ t.resets = s.resets.tail ∧ t.waveform = u.waveform.take k ∧
      (k = 0 → ∀ q, (t.port q).attached = (s.port q).attached) ∧
      (u.waveform.length ≤ k → ∀ q, (t.port q).attached = (u.port q).attached)) ∧
  (∀ (s : State) (p : Port) (f : Frame) (c : Instr) (rest : List HostWord) (g : Target) (m : Fin 4), Ready p s →
    s.busy = false → s.requests = transactWord f :: rest → s.resetDue = some (49 * m.val) → decodeFrame f = .ok c →
    (s.port p).clk = ⟨.output, .low⟩ → (s.port p).attached = .chip g → g.mode ≠ .off → g.cnt = 0 → g.bit = 0 → g.rx = 0 →
    g.latch = false →
      ∃ t g', step s = .next t ∧ (t.port p).attached = .chip g' ∧ g'.cnt = m ∧ g'.mode = g.mode)

/-! ### The Bit Channel -/

/-- EXCHANGE runs whenever a port is focused and no settle is owed, and does what 40_bit_channel.md R100 says, and leaves
the lines as R104, which the spec infers from R100, says. -/
def Obligations.ExchangeCompletes : Prop :=
  ∀ (p : Port) (out : Byte) (s : State), s.focus = some p → (∀ q, (s.port q).settle = 0) →
    ∃ inp t, exec (.exchange out) s = .next t ∧ Exchanged p out inp s t

/-- "The k-th DIN sample of an EXCHANGE becomes result bit 7 − k", each sample one draw, eight in all; DIN stuck at 0
gives 0x00, stuck at 1 gives 0xFF (40_bit_channel.md R103, which the spec infers from R100). A draw is the level the
environment foretells there, else a free one (the model's form, log 6). -/
def Obligations.ExchangeSamples : Prop :=
  ∀ (p : Port) (out : Byte) (s : State), s.focus = some p → (∀ q, (s.port q).settle = 0) →
    ∃ inp t, exec (.exchange out) s = .next t ∧ t.result = .done (.byte inp) ∧
      (samplesOn p t.waveform).length = 8 ∧ samplesOn p.other t.waveform = [] ∧
      (∀ k, k < 8 → (samplesOn p t.waveform)[k]? = some (inp.getLsbD (7 - k))) ∧
      (∀ l, (s.port p).attached = .env l → ∀ k, k < 8 →
        inp.getLsbD (7 - k) = (l[k]?).getD (Config.envDin p (s.draws + k))) ∧
      ((s.port p).attached = .stuck false → inp = 0x00) ∧ ((s.port p).attached = .stuck true → inp = 0xFF)

/-- The lines after an EXCHANGE (40_bit_channel.md R104, which the spec infers from R100), in a state of the invariant (so
that the focused port's lines are driven, 10_state.md R27). -/
def Obligations.ExchangeLines : Prop :=
  ∀ (p : Port) (out : Byte) (s : State), s.Inv → s.focus = some p → (∀ q, (s.port q).settle = 0) →
    ∃ t, exec (.exchange out) s = .next t ∧ (t.port p).clk.lvl = .low ∧ (t.port p).dout.lvl = levelOf (out.getLsbD 0) ∧
      (t.port p).rst.lvl = (s.port p).rst.lvl ∧ (∀ x, ((t.port p).line x).dir = ((s.port p).line x).dir) ∧
      (∀ x, (t.port p.other).line x = (s.port p.other).line x)

/-- The waveform of one EXCHANGE that starts with CLK low (40_bit_channel.md R101, which the spec infers from R100): 8
rising and 8 falling edges, the first drive of CLK no edge, the bits from 7 to 0, and SPI mode 0 with at least T_HALF
of set-up. -/
def Obligations.ExchangeIsModeZero : Prop :=
  ∀ (p : Port) (out : Byte) (s : State), s.focus = some p → (∀ q, (s.port q).settle = 0) →
    (s.port p).clk = ⟨.output, .low⟩ →
      ∃ t, exec (.exchange out) s = .next t ∧
        rises .low ⟨p, .clk⟩ t.waveform = 8 ∧ falls .low ⟨p, .clk⟩ t.waveform = 8 ∧
        levelsOn ⟨p, .clk⟩ t.waveform = .low :: (List.replicate 8 [.high, .low]).flatten ∧
        levelsOn ⟨p, .dout⟩ t.waveform = (wireBits out).map levelOf ∧
        modeZero p s.params.tHalfUs false 0 false t.waveform = true

/-- Loopback (40_bit_channel.md R106): EXCHANGE returns its operand, and in the record each sample follows the drive of the
same bit onto DOUT. -/
def Obligations.ExchangeLoopback : Prop :=
  ∀ (p : Port) (out : Byte) (s : State), s.focus = some p → (∀ q, (s.port q).settle = 0) →
    (s.port p).attached = .loop →
      ∃ t, exec (.exchange out) s = .next t ∧ t.result = .done (.byte out) ∧
        t.waveform = byteWave p s.params.tHalfUs out out

/-- FRAME_PHASE counts raw bytes mod 4, and a TRANSACT faults `F_MISALIGNED` exactly where their number is no multiple of
four (10_state.md R36, 70_reset_and_hazards.md R237). -/
def Obligations.RawBytesMisalign : Prop :=
  ∀ (p : Port) (s : State) (l : List Byte) (f : Frame), s.focus = some p → (∀ q, (s.port q).settle = 0) →
    ∃ t, execAll (l.map Instr.exchange) s = some t ∧
      (t.port p).framePhase.val = ((s.port p).framePhase.val + l.length) % 4 ∧
      ((∃ u, exec (.transact f) t = .next u ∧ Faulted .misaligned t u) ↔
        ((s.port p).framePhase.val + l.length) % 4 ≠ 0)

/-! ### Faults -/

/-- An operation reports the first fault that applies, in the order of 60_exceptions.md R218, and only that one is recorded;
where none applies it raises none. -/
def Obligations.FaultPriority : Prop :=
  (∀ (i : Instr) (s : State),
    (∀ c, faultApplies i s c → (∀ d, faultApplies i s d → c.number ≤ d.number) →
      ∃ t, exec i s = .next t ∧ Faulted c s t) ∧
    ((∀ c, ¬ faultApplies i s c) → ∃ t, exec i s = .next t ∧ t.result.status ≠ .fault ∧ t.faults = s.faults)) ∧
  (∀ (s : State) (w : HostWord) (rest : List HostWord), s.busy = false → s.requests = w :: rest → s.resetDue = none →
    (∀ i, decodeHost w ≠ .ok i) → ∃ t, step s = .next t ∧ Faulted .badReq { s.passReset with requests := rest } t)

/-- What a fault does and leaves (60_exceptions.md R219): whatever operation ends in status FAULT wrote RESULT and FAULTS,
set BUSY to 0, drove no line and changed nothing else. -/
def Obligations.FaultLeavesTheRest : Prop :=
  ∀ (i : Instr) (s t : State), exec i s = .next t → t.result.status = .fault →
    ∃ c, faultApplies i s c ∧ Faulted c s t

/-- The causes of the faults, each where no earlier one applies (60_exceptions.md R212, R214, R215, R216, R222). -/
def Obligations.FaultCauses : Prop :=
  (∀ (i : Instr) (s : State), ((∃ o, i = .exchange o) ∨ (∃ f, i = .transact f) ∨ i = .enterProgMode) →
    s.focus = none → ∃ t, exec i s = .next t ∧ Faulted .noFocus s t) ∧
  (∀ (b : Port) (s : State), (s.port b).written = false →
    ∃ t, exec (.readParams b) s = .next t ∧ Faulted .unidentified s t) ∧
  (∀ (i : Instr) (s : State) (q : Port), 0 < (s.port q).settle →
    ((∃ b, i = .focus b ∨ i = .identify b) ∨
      (s.focus ≠ none ∧ ((∃ o, i = .exchange o) ∨ (∃ f, i = .transact f) ∨ i = .enterProgMode))) →
    ∃ t, exec i s = .next t ∧ Faulted .settle s t) ∧
  (∀ (f : Frame) (s : State) (p : Port), s.focus = some p → (∀ q, (s.port q).settle = 0) →
    (s.port p).framePhase = 0 → (∀ r ∈ frameRows, r.matches f.toNat = false) →
    ∃ t, exec (.transact f) s = .next t ∧ Faulted .unlisted s t) ∧
  (∀ (f : Frame) (s : State) (p : Port) (c : Instr), s.focus = some p → (∀ q, (s.port q).settle = 0) →
    (s.port p).framePhase = 0 → decodeFrame f = .ok c →
    ((c = .progEn ∧ (s.port p).mode ≠ .resetActive ∧ (s.port p).mode ≠ .enableSent) ∨
      (c ≠ .progEn ∧ (s.port p).mode ≠ .enableSent)) →
    ∃ t, exec (.transact f) s = .next t ∧ Faulted .notEnabled s t)

/-- FAULTS records what was raised and loses nothing: no step removes a code, a step adds a code exactly where it
reports it, and only reset empties the set (10_state.md R38, 60_exceptions.md R217). -/
def Obligations.FaultsSticky : Prop :=
  State.reset.faults = [] ∧ (∀ s, (blockReset s).faults = []) ∧
    (∀ (s t : State), step s = .next t → s.requests ≠ [] → s.resetDue = none →
      ∀ c, c ∈ t.faults ↔ c ∈ s.faults ∨ t.result = .failed c) ∧
    ∀ (s t : State), step s = .next t → s.resetDue ≠ none → t.faults = []

/-- RESULT's form after any operation (30_encoding.md R79): the numbers of the statuses; the code is 0 exactly where the
status is not FAULT, and the value has the shape R76 gives the operation where the status is OK, else none (43_identifier.md
R190, 60_exceptions.md R219). -/
def Obligations.ResultForm : Prop :=
  (Status.ok.number = 0 ∧ Status.absent.number = 1 ∧ Status.fault.number = 2) ∧
  ∀ (i : Instr) (s t : State), exec i s = .next t →
    (t.result.codeNumber = 0 ↔ t.result.status ≠ .fault) ∧
    (t.result.status ≠ .ok → t.result.value = .none) ∧
    (t.result.status = .ok →
      match i with
      | .exchange _ | .enterProgMode => ∃ v, t.result.value = .byte v
      | .focus _ | .waitMs _ => t.result.value = .none
      | .identify _ | .readParams _ => ∃ v, t.result.value = .params v
      | _ => ∃ v, t.result.value = .frame v)

/-! ### The Transaction Framer -/

/-- Every read command runs on a port that is ready, sends its frame and owes no settle (41_framer.md R124, R125, R127 to
R129, R134, R135). -/
def Obligations.ReadCommandsComplete : Prop :=
  ∀ (p : Port) (s : State), Ready p s →
    (∀ n, ∃ r t, exec (.readSig n) s = .next t ∧ Sent p (packFrame 0x30 0x00 n 0x00) r .enableSent 0 s t) ∧
    (∀ a, ∃ r t, exec (.readEe a) s = .next t ∧ Sent p (packFrame 0xA0 0x00 a 0x00) r .enableSent 0 s t) ∧
    (∃ r t, exec .readFuseLo s = .next t ∧ Sent p 0x50000000 r .enableSent 0 s t) ∧
    (∃ r t, exec .readFuseExt s = .next t ∧ Sent p 0x50080000 r .enableSent 0 s t) ∧
    (∃ r t, exec .readFuseHi s = .next t ∧ Sent p 0x58080000 r .enableSent 0 s t) ∧
    (∀ w : Half, ∃ r t, exec (.readMemLo w) s = .next t ∧
      Sent p (packFrame 0x20 (w.extractLsb' 8 8) (w.extractLsb' 0 8) 0x00) r .enableSent 0 s t) ∧
    (∀ w : Half, ∃ r t, exec (.readMemHi w) s = .next t ∧
      Sent p (packFrame 0x28 (w.extractLsb' 8 8) (w.extractLsb' 0 8) 0x00) r .enableSent 0 s t)

/-- Every write-type command runs on a port that is ready, sends its frame and owes its settle (41_framer.md R126, R130 to
R133, R138, R141). -/
def Obligations.WriteCommandsComplete : Prop :=
  ∀ (p : Port) (s : State), Ready p s →
    (∀ a v, ∃ r t, exec (.writeEe a v) s = .next t ∧
      Sent p (packFrame 0xC0 0x00 a v) r .enableSent s.params.settleEeWriteMs s t) ∧
    (∀ v, ∃ r t, exec (.writeFuseLo v) s = .next t ∧
      Sent p (packFrame 0xAC 0xA0 0x00 v) r .enableSent s.params.settleFuseWriteMs s t) ∧
    (∀ v, ∃ r t, exec (.writeFuseHi v) s = .next t ∧
      Sent p (packFrame 0xAC 0xA8 0x00 v) r .enableSent s.params.settleFuseWriteMs s t) ∧
    (∀ v, ∃ r t, exec (.writeFuseExt v) s = .next t ∧
      Sent p (packFrame 0xAC 0xA4 0x00 v) r .enableSent s.params.settleFuseWriteMs s t) ∧
    (∃ r t, exec .chipErase s = .next t ∧ Sent p 0xAC800000 r .enableSent s.params.settleEraseMs s t) ∧
    (∀ w : Half, ∃ r t, exec (.writePage w) s = .next t ∧
      Sent p (packFrame 0x4C (w.extractLsb' 8 8) (w.extractLsb' 0 8) 0x00) r .enableSent s.params.settlePageWriteMs s t)

/-- The load commands run on a port that is ready, send their frames and owe no settle (41_framer.md R136, R137). -/
def Obligations.LoadCommandsComplete : Prop :=
  ∀ (p : Port) (s : State), Ready p s →
    (∀ o v, ∃ r t, exec (.loadMemLo o v) s = .next t ∧ Sent p (packFrame 0x40 0x00 o v) r .enableSent 0 s t) ∧
    (∀ o v, ∃ r t, exec (.loadMemHi o v) s = .next t ∧ Sent p (packFrame 0x48 0x00 o v) r .enableSent 0 s t)

/-- PROG_EN runs where PORT_MODE is RESET_ACTIVE or ENABLE_SENT and leaves ENABLE_SENT, whatever is received (41_framer.md
R123). -/
def Obligations.ProgEnCompletes : Prop :=
  ∀ (p : Port) (s : State), s.focus = some p → (∀ q, (s.port q).settle = 0) → (s.port p).framePhase = 0 →
    ((s.port p).mode = .resetActive ∨ (s.port p).mode = .enableSent) →
      ∃ r t, exec .progEn s = .next t ∧ Sent p 0xAC530000 r .enableSent 0 s t

/-- TRANSACT runs for every listed frame its port's mode allows, sends it bit for bit and does what 41_framer.md R120
says. -/
def Obligations.TransactCompletes : Prop :=
  ∀ (p : Port) (f : Frame) (c : Instr) (s : State), s.focus = some p → (∀ q, (s.port q).settle = 0) →
    (s.port p).framePhase = 0 → decodeFrame f = .ok c → modeOk c (s.port p).mode = true →
      ∃ r t, exec (.transact f) s = .next t ∧
        Sent p f r (if c = .progEn then .enableSent else (s.port p).mode) (settleOf s.params c) s t

/-- What a TRANSACT receives: R0 first, each byte's bit 7 first, from the levels the environment shows; under loopback the
frame itself; from a stuck line all bits alike (20_memory.md R53, 40_bit_channel.md R106, 41_framer.md R120; R103, which the
spec infers from R100; the environments are the model's, log 6, log 7). -/
def Obligations.TransactReceives : Prop :=
  ∀ (p : Port) (f : Frame) (c : Instr) (s : State), s.focus = some p → (∀ q, (s.port q).settle = 0) →
    (s.port p).framePhase = 0 → decodeFrame f = .ok c → modeOk c (s.port p).mode = true →
      ∃ r t, exec (.transact f) s = .next t ∧ t.result = .done (.frame r) ∧ samplesOn p t.waveform = frameBits r ∧
        (∀ v rest, (s.port p).attached = .env (frameBits v ++ rest) → r = v ∧ (t.port p).attached = .env rest) ∧
        ((s.port p).attached = .loop → r = f) ∧
        ((s.port p).attached = .stuck false → r = 0x00000000) ∧ ((s.port p).attached = .stuck true → r = 0xFFFFFFFF)

/-- The response byte of each command: R2 for PROG_EN, R3 for every read, none for the others (41_framer.md R121,
30_encoding.md R73). -/
def Obligations.ResponseBytes : Prop :=
  ∀ r0 r1 r2 r3 : Byte, response .progEn (packFrame r0 r1 r2 r3) = some r2 ∧
    (∀ n a w, ∀ c ∈ [.readSig n, .readEe a, .readFuseLo, .readFuseExt, .readFuseHi, .readMemLo w, .readMemHi w],
      response c (packFrame r0 r1 r2 r3) = some r3) ∧
    (∀ a v w, ∀ c ∈ [.writeEe a v, .writeFuseLo v, .writeFuseHi v, .writeFuseExt v, .chipErase, .loadMemLo a v,
      .loadMemHi a v, .writePage w], response c (packFrame r0 r1 r2 r3) = none)

/-- MODE_OK (41_framer.md R122): PROG_EN needs RESET_ACTIVE or ENABLE_SENT, every other listed command ENABLE_SENT;
otherwise TRANSACT faults `F_NOT_ENABLED`. -/
def Obligations.ModeRule : Prop :=
  ∀ (p : Port) (f : Frame) (c : Instr) (s : State), s.focus = some p → (∀ q, (s.port q).settle = 0) →
    (s.port p).framePhase = 0 → decodeFrame f = .ok c →
      (modeOk c (s.port p).mode = true ↔ (s.port p).mode = .enableSent ∨ (c = .progEn ∧ (s.port p).mode = .resetActive)) ∧
      (modeOk c (s.port p).mode = true → ∃ t, exec (.transact f) s = .next t ∧ t.result.status = .ok) ∧
      (modeOk c (s.port p).mode = false → ∃ t, exec (.transact f) s = .next t ∧ Faulted .notEnabled s t)

/-- The settle each command owes (41_framer.md R141), by the parameters and, at the defaults of 00_scope.md R7, in
figures; it is what SETTLE holds once the command was sent. -/
def Obligations.SettleRule : Prop :=
  (∀ a v w, settleOf Config.Params.default (.writeEe a v) = 4 ∧ settleOf Config.Params.default (.writeFuseLo v) = 5 ∧
    settleOf Config.Params.default (.writeFuseHi v) = 5 ∧ settleOf Config.Params.default (.writeFuseExt v) = 5 ∧
    settleOf Config.Params.default .chipErase = 10 ∧ settleOf Config.Params.default (.writePage w) = 5) ∧
  (∀ (p : Port) (s : State) (c : Instr) (f : Frame), Ready p s → frameOf c = some f →
    ∃ t, exec c s = .next t ∧ (t.port p).settle =
      match c with
      | .writeEe _ _ => s.params.settleEeWriteMs
      | .writeFuseLo _ | .writeFuseHi _ | .writeFuseExt _ => s.params.settleFuseWriteMs
      | .chipErase => s.params.settleEraseMs
      | .writePage _ => s.params.settlePageWriteMs
      | _ => 0)

/-- WAIT_MS runs in every state and does what 41_framer.md R140 says: `SETTLE[q] <- max(0, SETTLE[q] - n)` on both
ports, and nothing else. -/
def Obligations.WaitCompletes : Prop :=
  ∀ (n : BitVec 32) (s : State), ∃ t, exec (.waitMs n) s = .next t ∧ Waited n s t

/-- Only WAIT_MS lowers a settle, and only a TRANSACT on the focused port of a command that owes one raises it (10_state.md
R37). -/
def Obligations.SettleChanges : Prop :=
  ∀ (i : Instr) (s t : State) (q : Port), exec i s = .next t →
    ((t.port q).settle < (s.port q).settle → ∃ n, i = .waitMs n) ∧
    ((s.port q).settle < (t.port q).settle → s.focus = some q ∧
      ∃ f c, frameSent i = some f ∧ decodeFrame f = .ok c ∧ (t.port q).settle = settleOf s.params c)

/-- A settle is paid off by waits that total at least it, and until then FOCUS is turned away with `F_SETTLE` (41_framer.md
R140, R141, 70_reset_and_hazards.md R235). What FOCUS then does is `Focused`, where a released line keeps its level field by
the model's choice (log 11), the target on a port released under RELEASE stays as it was by another (log 8;
42_multiplexer.md R175 and 93_implementation_defined.md U15 leave it open), and the order of the line settings in the record
is the model's, read from the pseudocode (log 15; 93_implementation_defined.md U23 leaves it open). -/
def Obligations.SettlePaidOff : Prop :=
  ∀ (s : State) (l : List (BitVec 32)) (b : Port), ∃ t, execAll (l.map Instr.waitMs) s = some t ∧
    ((∀ q, (s.port q).settle ≤ (l.map BitVec.toNat).sum) → ∃ u, exec (.focus b) t = .next u ∧ Focused b t u) ∧
    ((∃ q, (l.map BitVec.toNat).sum < (s.port q).settle) → ∃ u, exec (.focus b) t = .next u ∧ Faulted .settle t u)

/-! ### The Interface Multiplexer -/

/-- FOCUS runs whenever no settle is owed and does what 42_multiplexer.md R170 says. That a released line keeps its level
field is the model's choice (log 11); the level of an input means nothing (10_state.md R25). That the target on a port
released under RELEASE stays as it was is its choice as well (log 8): R175 and 93_implementation_defined.md U15 leave it
open. The order of the line settings in the record is the model's too, read from the pseudocode (log 15): R170 makes them
one step, and 93_implementation_defined.md U23 leaves their order open. -/
def Obligations.FocusCompletes : Prop :=
  ∀ (b : Port) (s : State), (∀ q, (s.port q).settle = 0) → ∃ t, exec (.focus b) s = .next t ∧ Focused b s t

/-- FOCUS ends programming mode (42_multiplexer.md R174, which the spec infers from R170 and R171): RST is high, and a
reference target is OFF (TM2 of 95_test_vectors.md, informative; log 8); every listed frame is turned away with
`F_NOT_ENABLED` while a raw EXCHANGE runs; and ENTER_PROG_MODE makes the port ready again. -/
def Obligations.FocusEndsProgMode : Prop :=
  ∀ (b : Port) (s : State), (∀ q, (s.port q).settle = 0) →
    ∃ t, exec (.focus b) s = .next t ∧ (t.port b).rst = ⟨.output, .high⟩ ∧
      (∀ g, (s.port b).attached = .chip g → ∃ g', (t.port b).attached = .chip g' ∧ g'.mode = .off) ∧
      (∀ f c, decodeFrame f = .ok c → ∃ u, exec (.transact f) t = .next u ∧ Faulted .notEnabled t u) ∧
      (∀ out, ∃ u, exec (.exchange out) t = .next u ∧ u.result.status = .ok) ∧
      (∃ u, exec .enterProgMode t = .next u ∧ u.result.status = .ok ∧ Ready b u)

/-- ENTER_PROG_MODE runs whenever a port is focused and no settle is owed: the strobe, the programming-enable frame, and the
echo byte as result (42_multiplexer.md R171). -/
def Obligations.EnterCompletes : Prop :=
  ∀ (p : Port) (s : State), s.focus = some p → (∀ q, (s.port q).settle = 0) →
    ∃ r t, exec .enterProgMode s = .next t ∧ Entered p r s t

/-- The acknowledgment is not checked and the enable frame not sent again: whatever frame comes back, ENTER_PROG_MODE ends
with OK and its R2 byte, PORT_MODE is ENABLE_SENT, and exactly 32 levels were taken (42_multiplexer.md R172). -/
def Obligations.AcknowledgmentUnchecked : Prop :=
  ∀ (p : Port) (s : State) (r : Frame) (rest : List Bool), s.focus = some p → (∀ q, (s.port q).settle = 0) →
    (s.port p).attached = .env (frameBits r ++ rest) →
      ∃ t, exec .enterProgMode s = .next t ∧ t.result = .done (.byte (r.extractLsb' 8 8)) ∧
        (t.port p).mode = .enableSent ∧ (t.port p).attached = .env rest ∧ t.faults = s.faults

/-- "No operation changes the lines of the port that is not focused" (10_state.md R26): under HOLD they keep their direction
and level; under RELEASE a FOCUS (or IDENTIFY) that moves away from port q makes all its lines inputs, and nothing else
touches them. -/
def Obligations.UnfocusedLinesKeep : Prop :=
  ∀ (i : Instr) (s t : State) (q : Port), s.Inv → exec i s = .next t → t.focus ≠ some q →
    ((s.params.unfocusedLines = .hold ∨ s.focus ≠ some q) → ∀ x, (t.port q).line x = (s.port q).line x) ∧
    ((s.params.unfocusedLines = .release ∧ s.focus = some q) → ∀ x, ((t.port q).line x).dir = .input)

/-- The target on the port that is not focused sees nothing of what the block does (20_memory.md R60, 42_multiplexer.md
R175, which the spec infers from R170 and R26): what is attached there stays as it is, whatever the operation, and of the
port's bookkeeping only SETTLE changes, and only where WAIT_MS lowers it on both ports (41_framer.md R140). That a target
whose lines a FOCUS releases under RELEASE stays as it was is the model's choice (log 8: a released line shows it no edge);
R175 and 93_implementation_defined.md U15 leave it open. -/
def Obligations.UnfocusedTargetSeesNothing : Prop :=
  ∀ (i : Instr) (s t : State) (q : Port), exec i s = .next t → t.focus ≠ some q →
    (t.port q).attached = (s.port q).attached ∧ (t.port q).chip = (s.port q).chip ∧
      (t.port q).written = (s.port q).written ∧ (t.port q).mode = (s.port q).mode ∧
      (t.port q).framePhase = (s.port q).framePhase ∧
      (t.port q).settle =
        match i with
        | .waitMs n => (s.port q).settle - n.toNat
        | _ => (s.port q).settle

/-- One port at a time (42_multiplexer.md R173, which the spec infers from R170, R171 and R100): every line action
goes to the focused port, but for the release of the port focused before by a FOCUS (or IDENTIFY) under RELEASE; and
only those two operations move the focus. -/
def Obligations.OnePortAtATime : Prop :=
  ∀ (i : Instr) (s t : State), exec i s = .next t →
    (t.focus = s.focus ∨ ∃ b, (i = .focus b ∨ i = .identify b) ∧ t.focus = some b) ∧
    ∀ e ∈ t.waveform, match e with
      | .drive y _ => t.focus = some y.port
      | .sample p _ => t.focus = some p
      | .release y => (∃ b, i = .focus b ∨ i = .identify b) ∧ (t.focus = some y.port ∨
          (s.params.unfocusedLines = .release ∧ s.focus = some y.port))
      | .delayUs _ => True
      | .delayMs _ => True

/-! ### The bookkeeping -/

/-- FRAME_PHASE (10_state.md R36): an EXCHANGE advances the focused port's by 1 mod 4, FOCUS and the strobe set it to 0, a
TRANSACT leaves it, nothing else touches it; and a TRANSACT while it is not 0 faults `F_MISALIGNED`. -/
def Obligations.FramePhaseRule : Prop :=
  (∀ (i : Instr) (s t : State) (q : Port), exec i s = .next t → t.result.status ≠ .fault →
    (t.port q).framePhase =
      match i with
      | .exchange _ => if s.focus = some q then (s.port q).framePhase + 1 else (s.port q).framePhase
      | .enterProgMode => if s.focus = some q then 0 else (s.port q).framePhase
      | .focus b | .identify b => if b = q then 0 else (s.port q).framePhase
      | _ => (s.port q).framePhase) ∧
  (∀ (f : Frame) (s : State) (p : Port), s.focus = some p → (∀ q, (s.port q).settle = 0) →
    (s.port p).framePhase ≠ 0 → ∃ t, exec (.transact f) s = .next t ∧ Faulted .misaligned s t) ∧
  (∀ q, (State.reset.port q).framePhase = 0)

/-- PORT_MODE (10_state.md R35): FOCUS makes its port IDLE, the programming-enable frame makes it ENABLE_SENT, nothing else
touches it; it is UNKNOWN at reset. -/
def Obligations.PortModeRule : Prop :=
  (∀ (i : Instr) (s t : State) (q : Port), exec i s = .next t → t.result.status ≠ .fault →
    (t.port q).mode =
      match i with
      | .focus b => if b = q then .idle else (s.port q).mode
      | .identify b => if b = q then .enableSent else (s.port q).mode
      | .enterProgMode | .progEn => if s.focus = some q then .enableSent else (s.port q).mode
      | .transact f => if s.focus = some q ∧ f = 0xAC530000 then .enableSent else (s.port q).mode
      | _ => (s.port q).mode) ∧
  (∀ q, (State.reset.port q).mode = .unknown)

/-! ### The Chip Identifier -/

/-- LOOKUP (43_identifier.md R192): exactly the row whose signature it is, else none; and the two rows (10_state.md R22). -/
def Obligations.LookupExact : Prop :=
  (∀ (sig : Sig) (row : Config.DeviceParams), lookup sig = some row ↔ row ∈ Config.sigTab ∧ row.sig = sig) ∧
  lookup 0x0C931E = some ⟨0x0C931E, 32, 128, 256⟩ ∧ lookup 0x07921E = some ⟨0x07921E, 32, 64, 256⟩ ∧
  (∀ sig : Sig, sig ≠ 0x0C931E → sig ≠ 0x07921E → lookup sig = none)

/-- Signature assembly (43_identifier.md R191): the concatenation {S2, S1, S0} is the sum of the shifted bytes, byte 0 least
significant; and the byte streams of the two table values, which the spec infers from it. -/
def Obligations.SignatureAssembly : Prop :=
  (∀ s0 s1 s2 : Byte, assembleSig s0 s1 s2 = sigOf s0 s1 s2) ∧
  (∀ s0 s1 s2 : Byte, sigOf s0 s1 s2 = 0x0C931E ↔ s0 = 0x1E ∧ s1 = 0x93 ∧ s2 = 0x0C) ∧
  (∀ s0 s1 s2 : Byte, sigOf s0 s1 s2 = 0x07921E ↔ s0 = 0x1E ∧ s1 = 0x92 ∧ s2 = 0x07)

/-- IDENTIFY runs whenever no settle is owed: FOCUS, the strobe, four frames, the lookup of the signature received, and the
Chip Record on a match (43_identifier.md R190, R193). The other port is as FOCUS leaves it: that a released line keeps its
level field is the model's choice (log 11), and that the target there stays as it was under RELEASE is another (log 8;
42_multiplexer.md R175 and 93_implementation_defined.md U15 leave it open). The order of FOCUS's line settings in the record
is the model's too, read from the pseudocode (log 15; 93_implementation_defined.md U23 leaves it open). -/
def Obligations.IdentifyCompletes : Prop :=
  ∀ (b : Port) (s : State), (∀ q, (s.port q).settle = 0) →
    ∃ r0 r1 r2 r3 t, exec (.identify b) s = .next t ∧
      Identified b r0 r1 r2 r3 (lookup (sigOf (r1.extractLsb' 0 8) (r2.extractLsb' 0 8) (r3.extractLsb' 0 8))) s t

/-- Identification is exact (95_test_vectors.md W2, 43_identifier.md R190, R192): whatever three bytes the environment
answers in R3 of READ_SIG 0, 1, 2, in whatever frames, IDENTIFY returns the table row of that signature, and ABSENT
for every other 24-bit value. -/
def Obligations.IdentificationExact : Prop :=
  ∀ (b : Port) (s : State) (r0 r1 r2 r3 : Frame) (rest : List Bool), (∀ q, (s.port q).settle = 0) →
    (s.port b).attached = .env (frameBits r0 ++ frameBits r1 ++ frameBits r2 ++ frameBits r3 ++ rest) →
      ∃ t, exec (.identify b) s = .next t ∧ (t.port b).attached = .env rest ∧
        ∀ sig : Sig, sig = sigOf (r1.extractLsb' 0 8) (r2.extractLsb' 0 8) (r3.extractLsb' 0 8) →
          (∀ row ∈ Config.sigTab, row.sig = sig → t.result = ⟨.ok, none, .params row⟩ ∧ (t.port b).chip = row) ∧
          ((∀ row ∈ Config.sigTab, row.sig ≠ sig) →
            t.result = ⟨.absent, none, .none⟩ ∧ (t.port b).chip = (s.port b).chip)

/-- The identifier is a pure function of the three READ_SIG responses (43_identifier.md R196, which the spec infers from
R190): two runs, from any two states
and with anything attached, that receive the same three R3 bytes (bytes 7, 11 and 15 received) return the same result; and
the records agree after if they did before. -/
def Obligations.IdentifierIsPure : Prop :=
  ∀ (b : Port) (s s' t t' : State), exec (.identify b) s = .next t → exec (.identify b) s' = .next t' →
    t.result.status ≠ .fault → t'.result.status ≠ .fault →
    receivedByte b t.waveform 7 = receivedByte b t'.waveform 7 →
    receivedByte b t.waveform 11 = receivedByte b t'.waveform 11 →
    receivedByte b t.waveform 15 = receivedByte b t'.waveform 15 →
      t.result = t'.result ∧ ((s.port b).chip = (s'.port b).chip → (t.port b).chip = (t'.port b).chip)

/-- On a match IDENTIFY writes the matching row, all four fields, and sets WRITTEN; on no match it changes neither;
the other port's record is never touched (43_identifier.md R193). -/
def Obligations.IdentifyWritesRecord : Prop :=
  ∀ (b : Port) (s t : State), exec (.identify b) s = .next t →
    (t.result.status = .ok → ∃ row ∈ Config.sigTab, t.result.value = .params row ∧ (t.port b).chip = row ∧
      (t.port b).written = true ∧
      row.sig = sigOf (receivedByte b t.waveform 7) (receivedByte b t.waveform 11) (receivedByte b t.waveform 15)) ∧
    (t.result.status ≠ .ok → (t.port b).chip = (s.port b).chip ∧ (t.port b).written = (s.port b).written) ∧
    (t.port b.other).chip = (s.port b.other).chip ∧ (t.port b.other).written = (s.port b.other).written

/-- A Chip Record is written by a successful IDENTIFY of its port and by nothing else, and WRITTEN is never cleared
(10_state.md R33, R34). -/
def Obligations.RecordWrittenOnlyByIdentify : Prop :=
  ∀ (i : Instr) (s t : State) (q : Port), exec i s = .next t →
    ((s.port q).written = true → (t.port q).written = true) ∧
    (((t.port q).chip ≠ (s.port q).chip ∨ (t.port q).written ≠ (s.port q).written) →
      i = .identify q ∧ t.result = .done (.params (t.port q).chip) ∧ (t.port q).chip ∈ Config.sigTab ∧
        (t.port q).written = true)

/-- READ_PARAMS runs where its record was written, whatever is focused or owed, and returns it; else it faults
`F_UNIDENTIFIED` (43_identifier.md R194). -/
def Obligations.ReadParamsCompletes : Prop :=
  ∀ (b : Port) (s : State),
    ((s.port b).written = true → ∃ t, exec (.readParams b) s = .next t ∧ ParamsRead b s t) ∧
    ((s.port b).written = false → ∃ t, exec (.readParams b) s = .next t ∧ Faulted .unidentified s t)

/-- The parameters of the last successful IDENTIFY stay readable (43_identifier.md R194, 70_reset_and_hazards.md
R241): after an IDENTIFY b that returned OK, any further operations none of which is an IDENTIFY b leave READ_PARAMS b
returning that row. -/
def Obligations.ParametersPersist : Prop :=
  ∀ (b : Port) (s t u : State) (l : List Instr), exec (.identify b) s = .next t → t.result.status = .ok →
    (∀ i ∈ l, i ≠ .identify b) → execAll l t = some u →
      ∃ v, exec (.readParams b) u = .next v ∧ v.result = t.result

/-! ### Whole-machine rules -/

/-- No operation reads what OP, PHASE, BYTE_IDX, BIT_IDX, SR_OUT, SR_IN, CMD and RSP hold before it (10_state.md R28 to R30:
"never read", "a model may treat CMD and RSP as locals"): two states that differ only there go to the same state. That they
agree in those registers too rests on the model's free value for them, drawn anew as each operation ends (log 5). -/
def Obligations.ScratchNeverRead : Prop :=
  ∀ (i : Instr) (s : State) (k : Config.Scratch), exec i (s.setScratch k) = exec i s

/-- "The op field tells which length a request puts on the wire" (30_encoding.md R80, which the spec infers from R76): so
many DIN samples and CLK rises, all on the port then focused and none on the other (10_state.md R26); a fault puts none. -/
def Obligations.WireLengths : Prop :=
  ∀ (i : Instr) (s t : State), exec i s = .next t →
    (t.result.status = .fault → t.waveform = []) ∧
    (t.result.status ≠ .fault → ∀ p,
      (samplesOn p t.waveform).length = (if t.focus = some p then wireLength i else 0) ∧
      (levelsOn ⟨p, .clk⟩ t.waveform).count .high = (if t.focus = some p then wireLength i else 0)) ∧
    (t.result.status ≠ .fault → wireLength i ≠ 0 → t.focus ≠ none)

/-- The invariant holds after reset, and after a reset of a block that met it. -/
def Obligations.ResetMeetsInv : Prop := State.reset.Inv ∧ ∀ s : State, s.Inv → (blockReset s).Inv

/-- Every step keeps the invariant: BUSY is 0, the focused port is driven as 10_state.md R27 infers from R170 and
R100, with the RST level of its PORT_MODE, DIN is an input (R25), a settle is owed by the focused port alone, a
written record is a table row (R33), a port never focused is untouched, FAULTS and the target memories are in form. -/
def Obligations.StepKeepsInv : Prop :=
  ∀ s t : State, s.Inv → step s = .next t → t.Inv

/-! ### The reference target (informative: 95_test_vectors.md section 1; log 8) -/

/-- The echo of the reference target (TM3, TM5), in SYNC or PROG and between two frames: R0 = 0x00, R1 = B0, R2 = B1, and R3
the data of a read in PROG, else B2. The R3 of READ_SIG n with n above 2 is a draw, of which nothing is said: 41_framer.md
R124 says so, where TM5 has 0x00 (log 8). -/
def Obligations.ReferenceTargetEchoes : Prop :=
  ∀ (p : Port) (f : Frame) (c : Instr) (s : State) (g : Target), Ready p s → decodeFrame f = .ok c →
    (s.port p).clk = ⟨.output, .low⟩ → (s.port p).attached = .chip g → g.mode ≠ .off → g.cnt = 0 → g.bit = 0 → g.rx = 0 →
    g.latch = false → g.tx = some 0 →
      ∃ r3 t, exec (.transact f) s = .next t ∧ t.result = .done (.frame (packFrame 0x00 (frameB0 f) (frameB1 f) r3)) ∧
        match (if g.mode = .prog then g.data c else .echo) with
        | .echo => r3 = frameB2 f
        | .byte v => r3 = v
        | .draw => ∃ n, c = .readSig n ∧ 2 < n.toNat

/-- A reference target of any signature, in whatever state it was left, is identified by its signature alone
(43_identifier.md R190, R192; TM2 to TM5), and is in programming mode afterwards. -/
def Obligations.ReferenceTargetIdentified : Prop :=
  ∀ (b : Port) (s : State) (g : Target), (∀ q, (s.port q).settle = 0) → (s.port b).attached = .chip g →
    (s.port b).clk ≠ ⟨.output, .high⟩ →
      ∃ t g', exec (.identify b) s = .next t ∧ (t.port b).attached = .chip g' ∧ g'.mode = .prog ∧
        (∀ row, lookup (sigOf g.sig0 g.sig1 g.sig2) = some row → t.result = .done (.params row)) ∧
        (lookup (sigOf g.sig0 g.sig1 g.sig2) = none → t.result = ⟨.absent, none, .none⟩)

/-- Write, settle, read back (95_test_vectors.md P3) on a reference target in programming mode: the byte read is the one
written, and every other EEPROM byte reads as before. -/
def Obligations.ReferenceEepromReadsBack : Prop :=
  ∀ (p : Port) (a v x : Byte) (n : BitVec 32) (s : State) (g : Target), s.Inv → Ready p s →
    (s.port p).attached = .chip g → g.mode = .prog → g.cnt = 0 → g.bit = 0 → g.rx = 0 → g.latch = false → g.tx = some 0 →
    s.params.settleEeWriteMs ≤ n.toNat →
      ∃ t, execAll [.writeEe a v, .waitMs n, .readEe x] s = some t ∧
        t.result = .done (.frame (packFrame 0x00 0xA0 0x00 (if x = a then v else Memory.read g.ee x.toNat)))
end

