-- ==== Sys2Proof/Laws/Decode.lean ====
section
/-! SUPPORT. The fields of frames and host words, taken apart and put together. -/

namespace Sys2Proof

/-! ### Frames -/

theorem getLsbD_packFrame (b0 b1 b2 b3 : Byte) (i : Nat) : (packFrame b0 b1 b2 b3).getLsbD i =
    if i < 8 then b3.getLsbD i else if i < 16 then b2.getLsbD (i - 8) else if i < 24 then b1.getLsbD (i - 16)
      else b0.getLsbD (i - 24) := by
  rw [packFrame, BitVec.getLsbD_append, BitVec.getLsbD_append, BitVec.getLsbD_append]
  split
  · rfl
  · split
    · rw [if_pos (by omega)]
    · split
      · rw [if_neg (by omega), if_pos (by omega)]; congr 1
      · rw [if_neg (by omega), if_neg (by omega)]; congr 1

@[simp] theorem frameB0_pack (b0 b1 b2 b3 : Byte) : frameB0 (packFrame b0 b1 b2 b3) = b0 := by
  refine BitVec.eq_of_getLsbD_eq fun i hi => ?_
  rw [frameB0, BitVec.getLsbD_extractLsb', getLsbD_packFrame, if_neg (by omega), if_neg (by omega), if_neg (by omega)]
  simp [hi]

@[simp] theorem frameB1_pack (b0 b1 b2 b3 : Byte) : frameB1 (packFrame b0 b1 b2 b3) = b1 := by
  refine BitVec.eq_of_getLsbD_eq fun i hi => ?_
  rw [frameB1, BitVec.getLsbD_extractLsb', getLsbD_packFrame, if_neg (by omega), if_neg (by omega), if_pos (by omega)]
  simp [hi]

@[simp] theorem frameB2_pack (b0 b1 b2 b3 : Byte) : frameB2 (packFrame b0 b1 b2 b3) = b2 := by
  refine BitVec.eq_of_getLsbD_eq fun i hi => ?_
  rw [frameB2, BitVec.getLsbD_extractLsb', getLsbD_packFrame, if_neg (by omega), if_pos (by omega)]
  simp [hi]

@[simp] theorem frameB3_pack (b0 b1 b2 b3 : Byte) : frameB3 (packFrame b0 b1 b2 b3) = b3 := by
  refine BitVec.eq_of_getLsbD_eq fun i hi => ?_
  rw [frameB3, BitVec.getLsbD_extractLsb', getLsbD_packFrame, if_pos (by omega)]
  simp [hi]

/-- A frame is the four bytes it is made of. -/
@[simp] theorem packFrame_bytes (f : Frame) : packFrame (frameB0 f) (frameB1 f) (frameB2 f) (frameB3 f) = f := by
  refine BitVec.eq_of_getLsbD_eq fun i hi => ?_
  rw [getLsbD_packFrame]
  simp only [frameB0, frameB1, frameB2, frameB3, BitVec.getLsbD_extractLsb']
  split
  · simp [*]
  · split
    · rw [show 8 + (i - 8) = i by omega]; simp; omega
    · split
      · rw [show 16 + (i - 16) = i by omega]; simp; omega
      · rw [show 24 + (i - 24) = i by omega]; simp; omega

theorem packFrame_inj (a b c d a' b' c' d' : Byte) :
    packFrame a b c d = packFrame a' b' c' d' ↔ a = a' ∧ b = b' ∧ c = c' ∧ d = d' := by
  constructor
  · intro h
    have h0 := congrArg frameB0 h
    have h1 := congrArg frameB1 h
    have h2 := congrArg frameB2 h
    have h3 := congrArg frameB3 h
    simp only [frameB0_pack, frameB1_pack, frameB2_pack, frameB3_pack] at h0 h1 h2 h3
    exact ⟨h0, h1, h2, h3⟩
  · rintro ⟨rfl, rfl, rfl, rfl⟩
    rfl

/-- Masking a frame masks its bytes. -/
theorem packFrame_and (a b c d a' b' c' d' : Byte) :
    packFrame a b c d &&& packFrame a' b' c' d' = packFrame (a &&& a') (b &&& b') (c &&& c') (d &&& d') := by
  refine BitVec.eq_of_getLsbD_eq fun i _ => ?_
  rw [BitVec.getLsbD_and, getLsbD_packFrame, getLsbD_packFrame, getLsbD_packFrame]
  split
  · simp
  · split
    · simp
    · split <;> simp

/-- A frame matches a row of the table, byte by byte. -/
theorem TableRow.matches_frame (m : String) (f : Frame) (v0 v1 v2 v3 m0 m1 m2 m3 : Byte) :
    (⟨m, 32, (packFrame v0 v1 v2 v3).toNat, (packFrame m0 m1 m2 m3).toNat⟩ : TableRow).matches f.toNat =
      decide (frameB0 f &&& m0 = v0 ∧ frameB1 f &&& m1 = v1 ∧ frameB2 f &&& m2 = v2 ∧ frameB3 f &&& m3 = v3) := by
  rw [TableRow.matches, ← BitVec.toNat_and, Bool.eq_iff_iff]
  simp only [beq_iff_eq, BitVec.toNat_inj, decide_eq_true_eq]
  conv_lhs => rw [← packFrame_bytes f, packFrame_and, packFrame_inj]

/-- Which branch of a check a decoder took. -/
theorem ite_eq_ok {α β : Type} {c : Prop} [Decidable c] {a b : Except α β} {r : β} (h : (if c then a else b) = .ok r) :
    (c ∧ a = .ok r) ∨ (¬ c ∧ b = .ok r) := by
  by_cases hc : c
  · rw [if_pos hc] at h; exact .inl ⟨hc, h⟩
  · rw [if_neg hc] at h; exact .inr ⟨hc, h⟩

@[simp] theorem wordAddr_parts (w : Half) : wordAddr (addrHi w) (addrLo w) = w := by
  refine BitVec.eq_of_getLsbD_eq fun i hi => ?_
  rw [wordAddr, BitVec.getLsbD_append, addrHi, addrLo, BitVec.getLsbD_extractLsb', BitVec.getLsbD_extractLsb']
  split
  · simp [*]
  · rw [show 8 + (i - 8) = i by omega]; simp; omega

@[simp] theorem addrHi_wordAddr (h l : Byte) : addrHi (wordAddr h l) = h := by
  refine BitVec.eq_of_getLsbD_eq fun i hi => ?_
  rw [addrHi, BitVec.getLsbD_extractLsb', wordAddr, BitVec.getLsbD_append, if_neg (by omega)]
  simp [hi]

@[simp] theorem addrLo_wordAddr (h l : Byte) : addrLo (wordAddr h l) = l := by
  refine BitVec.eq_of_getLsbD_eq fun i hi => ?_
  rw [addrLo, BitVec.getLsbD_extractLsb', wordAddr, BitVec.getLsbD_append, if_pos (by omega)]
  simp [hi]

/-! ### Host words -/

theorem getLsbD_packHost (op : BitVec 4) (b : Bool) (d : BitVec 32) (i : Nat) : (packHost op b d).getLsbD i =
    if i < 4 then op.getLsbD i else if i < 5 then b else if i < 8 then false else d.getLsbD (i - 8) := by
  rw [packHost, BitVec.getLsbD_append, BitVec.getLsbD_append, BitVec.getLsbD_append]
  by_cases h4 : i < 4
  · rw [if_pos h4, if_pos h4]
  · rw [if_neg h4, if_neg h4]
    by_cases h5 : i < 5
    · rw [if_pos h5, if_pos (by omega), show i - 4 = 0 by omega]; simp
    · rw [if_neg h5, if_neg (by omega)]
      by_cases h8 : i < 8
      · rw [if_pos h8, if_pos (by omega)]; simp
      · rw [if_neg h8, if_neg (by omega), show i - 4 - 1 - 3 = i - 8 by omega]

@[simp] theorem hostOp_pack (op : BitVec 4) (b : Bool) (d : BitVec 32) : hostOp (packHost op b d) = op := by
  refine BitVec.eq_of_getLsbD_eq fun i hi => ?_
  rw [hostOp, BitVec.getLsbD_extractLsb', getLsbD_packHost, if_pos (by omega)]
  simp [hi]

@[simp] theorem hostB_pack (op : BitVec 4) (b : Bool) (d : BitVec 32) : hostB (packHost op b d) = b := by
  rw [hostB, getLsbD_packHost]
  rfl

@[simp] theorem hostRsv_pack (op : BitVec 4) (b : Bool) (d : BitVec 32) : hostRsv (packHost op b d) = 0 := by
  refine BitVec.eq_of_getLsbD_eq fun i hi => ?_
  rw [hostRsv, BitVec.getLsbD_extractLsb', getLsbD_packHost, if_neg (by omega), if_neg (by omega), if_pos (by omega)]
  simp

@[simp] theorem hostD_pack (op : BitVec 4) (b : Bool) (d : BitVec 32) : hostD (packHost op b d) = d := by
  refine BitVec.eq_of_getLsbD_eq fun i hi => ?_
  rw [hostD, BitVec.getLsbD_extractLsb', getLsbD_packHost, if_neg (by omega), if_neg (by omega), if_neg (by omega)]
  simp [hi]

/-- A host word with `rsv = 0` is the fields it is made of. -/
theorem packHost_fields (w : HostWord) (h : hostRsv w = 0) : packHost (hostOp w) (hostB w) (hostD w) = w := by
  refine BitVec.eq_of_getLsbD_eq fun i hi => ?_
  rw [getLsbD_packHost]
  split
  · simp [hostOp, *]
  · split
    · rw [hostB]; congr 1; omega
    · split
      · have hb := congrArg (fun v => v.getLsbD (i - 5)) h
        simp only [hostRsv, BitVec.getLsbD_extractLsb', show 5 + (i - 5) = i by omega] at hb
        simpa [show i - 5 < 3 by omega] using hb.symm
      · simp only [hostD, BitVec.getLsbD_extractLsb', show 8 + (i - 8) = i by omega]; simp; omega

@[simp] theorem portOfBit_bitOfPort (p : Port) : portOfBit (bitOfPort p) = p := by cases p <;> rfl

@[simp] theorem bitOfPort_portOfBit (b : Bool) : bitOfPort (portOfBit b) = b := by cases b <;> rfl

end Sys2Proof
end

