-- ==== Sys2Proof/Laws/State.lean ====
section
/-! SUPPORT. One lemma per field per update of the state, so that no later proof unfolds a record update. -/

namespace Sys2Proof.Machine

variable (s : State) (p q : Port) (v : PortState) (e : LineEvent) (n : Nat) (k : Config.Scratch) (f : Option Port)
  (ph : Config.Phase) (op : Config.HostOp) (r : Result) (val : Value) (c : FaultCode) (w : HostWord) (x : Line) (lv : Level)

/-! ### `setPort` and `port` -/

@[simp] theorem State.setPort_focus : (s.setPort p v).focus = s.focus := by cases p <;> rfl
@[simp] theorem State.setPort_busy : (s.setPort p v).busy = s.busy := by cases p <;> rfl
@[simp] theorem State.setPort_scratch : (s.setPort p v).scratch = s.scratch := by cases p <;> rfl
@[simp] theorem State.setPort_result : (s.setPort p v).result = s.result := by cases p <;> rfl
@[simp] theorem State.setPort_faults : (s.setPort p v).faults = s.faults := by cases p <;> rfl
@[simp] theorem State.setPort_params : (s.setPort p v).params = s.params := by cases p <;> rfl
@[simp] theorem State.setPort_requests : (s.setPort p v).requests = s.requests := by cases p <;> rfl
@[simp] theorem State.setPort_resets : (s.setPort p v).resets = s.resets := by cases p <;> rfl
@[simp] theorem State.setPort_draws : (s.setPort p v).draws = s.draws := by cases p <;> rfl
@[simp] theorem State.setPort_free : (s.setPort p v).free = s.free := by cases p <;> rfl
@[simp] theorem State.setPort_wave : (s.setPort p v).wave = s.wave := by cases p <;> rfl
@[simp] theorem State.port_setPort_self : (s.setPort p v).port p = v := by cases p <;> rfl
theorem State.port_setPort_ne (h : q ≠ p) : (s.setPort p v).port q = s.port q := by
  cases p <;> cases q <;> first | rfl | exact absurd rfl h
@[simp] theorem State.port_setPort_other : (s.setPort p v).port p.other = s.port p.other := by cases p <;> rfl
@[simp] theorem State.port_setPort_of_other : (s.setPort p.other v).port p = s.port p := by cases p <;> rfl
@[simp] theorem State.setPort_same : s.setPort p (s.port p) = s := by cases p <;> rfl
theorem State.setPort_setPort (w : PortState) : (s.setPort p v).setPort p w = s.setPort p w := by cases p <;> rfl
@[simp] theorem other_other : p.other.other = p := by cases p <;> rfl
@[simp] theorem other_ne : p.other ≠ p := by cases p <;> decide
@[simp] theorem ne_other : p ≠ p.other := by cases p <;> decide
theorem eq_other_of_ne (h : q ≠ p) : q = p.other := by cases p <;> cases q <;> first | rfl | exact absurd rfl h
theorem State.ext_ports {s t : State} (h1 : s.focus = t.focus) (h2 : ∀ p, s.port p = t.port p) (h3 : s.busy = t.busy)
    (h4 : s.scratch = t.scratch) (h5 : s.result = t.result) (h6 : s.faults = t.faults) (h7 : s.params = t.params)
    (h8 : s.requests = t.requests) (h8' : s.resets = t.resets) (h9 : s.draws = t.draws) (h10 : s.free = t.free) (h11 : s.wave = t.wave) : s = t := by
  have ha := h2 .socket
  have hb := h2 .bus
  cases s; cases t
  simp_all [State.port]

/-! ### `note`, `delayUs`, `delayMs` -/

@[simp] theorem State.note_focus : (s.note e).focus = s.focus := rfl
@[simp] theorem State.note_busy : (s.note e).busy = s.busy := rfl
@[simp] theorem State.note_scratch : (s.note e).scratch = s.scratch := rfl
@[simp] theorem State.note_result : (s.note e).result = s.result := rfl
@[simp] theorem State.note_faults : (s.note e).faults = s.faults := rfl
@[simp] theorem State.note_params : (s.note e).params = s.params := rfl
@[simp] theorem State.note_requests : (s.note e).requests = s.requests := rfl
@[simp] theorem State.note_resets : (s.note e).resets = s.resets := rfl
@[simp] theorem State.note_draws : (s.note e).draws = s.draws := rfl
@[simp] theorem State.note_free : (s.note e).free = s.free := rfl
@[simp] theorem State.note_wave : (s.note e).wave = e :: s.wave := rfl
@[simp] theorem State.note_port : (s.note e).port q = s.port q := by cases q <;> rfl
@[simp] theorem State.delayUs_focus : (s.delayUs n).focus = s.focus := rfl
@[simp] theorem State.delayUs_busy : (s.delayUs n).busy = s.busy := rfl
@[simp] theorem State.delayUs_scratch : (s.delayUs n).scratch = s.scratch := rfl
@[simp] theorem State.delayUs_result : (s.delayUs n).result = s.result := rfl
@[simp] theorem State.delayUs_faults : (s.delayUs n).faults = s.faults := rfl
@[simp] theorem State.delayUs_params : (s.delayUs n).params = s.params := rfl
@[simp] theorem State.delayUs_requests : (s.delayUs n).requests = s.requests := rfl
@[simp] theorem State.delayUs_resets : (s.delayUs n).resets = s.resets := rfl
@[simp] theorem State.delayUs_draws : (s.delayUs n).draws = s.draws := rfl
@[simp] theorem State.delayUs_free : (s.delayUs n).free = s.free := rfl
@[simp] theorem State.delayUs_wave : (s.delayUs n).wave = .delayUs n :: s.wave := rfl
@[simp] theorem State.delayUs_port : (s.delayUs n).port q = s.port q := by cases q <;> rfl
@[simp] theorem State.delayMs_focus : (s.delayMs n).focus = s.focus := rfl
@[simp] theorem State.delayMs_busy : (s.delayMs n).busy = s.busy := rfl
@[simp] theorem State.delayMs_scratch : (s.delayMs n).scratch = s.scratch := rfl
@[simp] theorem State.delayMs_result : (s.delayMs n).result = s.result := rfl
@[simp] theorem State.delayMs_faults : (s.delayMs n).faults = s.faults := rfl
@[simp] theorem State.delayMs_params : (s.delayMs n).params = s.params := rfl
@[simp] theorem State.delayMs_requests : (s.delayMs n).requests = s.requests := rfl
@[simp] theorem State.delayMs_resets : (s.delayMs n).resets = s.resets := rfl
@[simp] theorem State.delayMs_draws : (s.delayMs n).draws = s.draws := rfl
@[simp] theorem State.delayMs_free : (s.delayMs n).free = s.free := rfl
@[simp] theorem State.delayMs_wave : (s.delayMs n).wave = .delayMs n :: s.wave := rfl
@[simp] theorem State.delayMs_port : (s.delayMs n).port q = s.port q := by cases q <;> rfl

/-! ### `setScratch` -/

@[simp] theorem State.setScratch_focus : (s.setScratch k).focus = s.focus := rfl
@[simp] theorem State.setScratch_busy : (s.setScratch k).busy = s.busy := rfl
@[simp] theorem State.setScratch_scratch : (s.setScratch k).scratch = k := rfl
@[simp] theorem State.setScratch_result : (s.setScratch k).result = s.result := rfl
@[simp] theorem State.setScratch_faults : (s.setScratch k).faults = s.faults := rfl
@[simp] theorem State.setScratch_params : (s.setScratch k).params = s.params := rfl
@[simp] theorem State.setScratch_requests : (s.setScratch k).requests = s.requests := rfl
@[simp] theorem State.setScratch_resets : (s.setScratch k).resets = s.resets := rfl
@[simp] theorem State.setScratch_draws : (s.setScratch k).draws = s.draws := rfl
@[simp] theorem State.setScratch_free : (s.setScratch k).free = s.free := rfl
@[simp] theorem State.setScratch_wave : (s.setScratch k).wave = s.wave := rfl
@[simp] theorem State.setScratch_port : (s.setScratch k).port q = s.port q := by cases q <;> rfl

/-! ### `setFocus` -/

@[simp] theorem State.setFocus_focus : (s.setFocus f).focus = f := rfl
@[simp] theorem State.setFocus_busy : (s.setFocus f).busy = s.busy := rfl
@[simp] theorem State.setFocus_scratch : (s.setFocus f).scratch = s.scratch := rfl
@[simp] theorem State.setFocus_result : (s.setFocus f).result = s.result := rfl
@[simp] theorem State.setFocus_faults : (s.setFocus f).faults = s.faults := rfl
@[simp] theorem State.setFocus_params : (s.setFocus f).params = s.params := rfl
@[simp] theorem State.setFocus_requests : (s.setFocus f).requests = s.requests := rfl
@[simp] theorem State.setFocus_resets : (s.setFocus f).resets = s.resets := rfl
@[simp] theorem State.setFocus_draws : (s.setFocus f).draws = s.draws := rfl
@[simp] theorem State.setFocus_free : (s.setFocus f).free = s.free := rfl
@[simp] theorem State.setFocus_wave : (s.setFocus f).wave = s.wave := rfl
@[simp] theorem State.setFocus_port : (s.setFocus f).port q = s.port q := by cases q <;> rfl

/-! ### `setDraws` -/

@[simp] theorem State.setDraws_focus : (s.setDraws n).focus = s.focus := rfl
@[simp] theorem State.setDraws_busy : (s.setDraws n).busy = s.busy := rfl
@[simp] theorem State.setDraws_scratch : (s.setDraws n).scratch = s.scratch := rfl
@[simp] theorem State.setDraws_result : (s.setDraws n).result = s.result := rfl
@[simp] theorem State.setDraws_faults : (s.setDraws n).faults = s.faults := rfl
@[simp] theorem State.setDraws_params : (s.setDraws n).params = s.params := rfl
@[simp] theorem State.setDraws_requests : (s.setDraws n).requests = s.requests := rfl
@[simp] theorem State.setDraws_resets : (s.setDraws n).resets = s.resets := rfl
@[simp] theorem State.setDraws_draws : (s.setDraws n).draws = n := rfl
@[simp] theorem State.setDraws_free : (s.setDraws n).free = s.free := rfl
@[simp] theorem State.setDraws_wave : (s.setDraws n).wave = s.wave := rfl
@[simp] theorem State.setDraws_port : (s.setDraws n).port q = s.port q := by cases q <;> rfl

/-! ### `setPhase` -/

@[simp] theorem State.setPhase_focus : (s.setPhase ph).focus = s.focus := rfl
@[simp] theorem State.setPhase_busy : (s.setPhase ph).busy = s.busy := rfl
@[simp] theorem State.setPhase_scratch : (s.setPhase ph).scratch = { s.scratch with phase := ph } := rfl
@[simp] theorem State.setPhase_result : (s.setPhase ph).result = s.result := rfl
@[simp] theorem State.setPhase_faults : (s.setPhase ph).faults = s.faults := rfl
@[simp] theorem State.setPhase_params : (s.setPhase ph).params = s.params := rfl
@[simp] theorem State.setPhase_requests : (s.setPhase ph).requests = s.requests := rfl
@[simp] theorem State.setPhase_resets : (s.setPhase ph).resets = s.resets := rfl
@[simp] theorem State.setPhase_draws : (s.setPhase ph).draws = s.draws := rfl
@[simp] theorem State.setPhase_free : (s.setPhase ph).free = s.free := rfl
@[simp] theorem State.setPhase_wave : (s.setPhase ph).wave = s.wave := rfl
@[simp] theorem State.setPhase_port : (s.setPhase ph).port q = s.port q := by cases q <;> rfl

/-! ### `newRecord` -/

@[simp] theorem State.newRecord_focus : s.newRecord.focus = s.focus := rfl
@[simp] theorem State.newRecord_busy : s.newRecord.busy = s.busy := rfl
@[simp] theorem State.newRecord_scratch : s.newRecord.scratch = s.scratch := rfl
@[simp] theorem State.newRecord_result : s.newRecord.result = s.result := rfl
@[simp] theorem State.newRecord_faults : s.newRecord.faults = s.faults := rfl
@[simp] theorem State.newRecord_params : s.newRecord.params = s.params := rfl
@[simp] theorem State.newRecord_requests : s.newRecord.requests = s.requests := rfl
@[simp] theorem State.newRecord_resets : s.newRecord.resets = s.resets := rfl
@[simp] theorem State.newRecord_draws : s.newRecord.draws = s.draws := rfl
@[simp] theorem State.newRecord_free : s.newRecord.free = s.free := rfl
@[simp] theorem State.newRecord_wave : s.newRecord.wave = [] := rfl
@[simp] theorem State.newRecord_port : s.newRecord.port q = s.port q := by cases q <;> rfl

/-! ### `passReset` -/

@[simp] theorem State.passReset_focus : s.passReset.focus = s.focus := rfl
@[simp] theorem State.passReset_busy : s.passReset.busy = s.busy := rfl
@[simp] theorem State.passReset_scratch : s.passReset.scratch = s.scratch := rfl
@[simp] theorem State.passReset_result : s.passReset.result = s.result := rfl
@[simp] theorem State.passReset_faults : s.passReset.faults = s.faults := rfl
@[simp] theorem State.passReset_params : s.passReset.params = s.params := rfl
@[simp] theorem State.passReset_requests : s.passReset.requests = s.requests := rfl
@[simp] theorem State.passReset_draws : s.passReset.draws = s.draws := rfl
@[simp] theorem State.passReset_free : s.passReset.free = s.free := rfl
@[simp] theorem State.passReset_wave : s.passReset.wave = s.wave := rfl
@[simp] theorem State.passReset_resets : s.passReset.resets = s.resets.tail := rfl
@[simp] theorem State.passReset_port : s.passReset.port q = s.port q := by cases q <;> rfl

/-! ### `start` -/

@[simp] theorem State.start_focus : (s.start op).focus = s.focus := rfl
@[simp] theorem State.start_busy : (s.start op).busy = true := rfl
@[simp] theorem State.start_scratch : (s.start op).scratch = { s.scratch with op := op } := rfl
@[simp] theorem State.start_result : (s.start op).result = s.result := rfl
@[simp] theorem State.start_faults : (s.start op).faults = s.faults := rfl
@[simp] theorem State.start_params : (s.start op).params = s.params := rfl
@[simp] theorem State.start_requests : (s.start op).requests = s.requests := rfl
@[simp] theorem State.start_resets : (s.start op).resets = s.resets := rfl
@[simp] theorem State.start_draws : (s.start op).draws = s.draws := rfl
@[simp] theorem State.start_free : (s.start op).free = s.free := rfl
@[simp] theorem State.start_wave : (s.start op).wave = [] := rfl
@[simp] theorem State.start_port : (s.start op).port q = s.port q := by cases q <;> rfl

/-! ### `finish`, `complete`, `raise` -/

@[simp] theorem State.finish_focus : (s.finish r).focus = s.focus := rfl
@[simp] theorem State.finish_busy : (s.finish r).busy = false := rfl
@[simp] theorem State.finish_scratch : (s.finish r).scratch = Config.idleScratch s.free := rfl
@[simp] theorem State.finish_result : (s.finish r).result = r := rfl
@[simp] theorem State.finish_faults : (s.finish r).faults = s.faults := rfl
@[simp] theorem State.finish_params : (s.finish r).params = s.params := rfl
@[simp] theorem State.finish_requests : (s.finish r).requests = s.requests := rfl
@[simp] theorem State.finish_resets : (s.finish r).resets = s.resets := rfl
@[simp] theorem State.finish_draws : (s.finish r).draws = s.draws := rfl
@[simp] theorem State.finish_free : (s.finish r).free = s.free + 1 := rfl
@[simp] theorem State.finish_wave : (s.finish r).wave = s.wave := rfl
@[simp] theorem State.finish_port : (s.finish r).port q = s.port q := by cases q <;> rfl
@[simp] theorem State.complete_focus : (s.complete val).focus = s.focus := rfl
@[simp] theorem State.complete_busy : (s.complete val).busy = false := rfl
@[simp] theorem State.complete_scratch : (s.complete val).scratch = Config.idleScratch s.free := rfl
@[simp] theorem State.complete_result : (s.complete val).result = .done val := rfl
@[simp] theorem State.complete_faults : (s.complete val).faults = s.faults := rfl
@[simp] theorem State.complete_params : (s.complete val).params = s.params := rfl
@[simp] theorem State.complete_requests : (s.complete val).requests = s.requests := rfl
@[simp] theorem State.complete_resets : (s.complete val).resets = s.resets := rfl
@[simp] theorem State.complete_draws : (s.complete val).draws = s.draws := rfl
@[simp] theorem State.complete_free : (s.complete val).free = s.free + 1 := rfl
@[simp] theorem State.complete_wave : (s.complete val).wave = s.wave := rfl
@[simp] theorem State.complete_port : (s.complete val).port q = s.port q := by cases q <;> rfl
@[simp] theorem State.raise_focus : (s.raise c).focus = s.focus := rfl
@[simp] theorem State.raise_busy : (s.raise c).busy = false := rfl
@[simp] theorem State.raise_scratch : (s.raise c).scratch = Config.idleScratch s.free := rfl
@[simp] theorem State.raise_result : (s.raise c).result = .failed c := rfl
@[simp] theorem State.raise_faults : (s.raise c).faults = addFault c s.faults := rfl
@[simp] theorem State.raise_params : (s.raise c).params = s.params := rfl
@[simp] theorem State.raise_requests : (s.raise c).requests = s.requests := rfl
@[simp] theorem State.raise_resets : (s.raise c).resets = s.resets := rfl
@[simp] theorem State.raise_draws : (s.raise c).draws = s.draws := rfl
@[simp] theorem State.raise_free : (s.raise c).free = s.free + 1 := rfl
@[simp] theorem State.raise_wave : (s.raise c).wave = [] := rfl
@[simp] theorem State.raise_port : (s.raise c).port q = s.port q := by cases q <;> rfl

/-! ### `present` -/

@[simp] theorem State.present_focus : (s.present w).focus = s.focus := rfl
@[simp] theorem State.present_busy : (s.present w).busy = s.busy := rfl
@[simp] theorem State.present_scratch : (s.present w).scratch = s.scratch := rfl
@[simp] theorem State.present_result : (s.present w).result = s.result := rfl
@[simp] theorem State.present_faults : (s.present w).faults = s.faults := rfl
@[simp] theorem State.present_params : (s.present w).params = s.params := rfl
@[simp] theorem State.present_requests : (s.present w).requests = w :: s.requests := rfl
@[simp] theorem State.present_resets : (s.present w).resets = s.resets := rfl
@[simp] theorem State.present_draws : (s.present w).draws = s.draws := rfl
@[simp] theorem State.present_free : (s.present w).free = s.free := rfl
@[simp] theorem State.present_wave : (s.present w).wave = s.wave := rfl
@[simp] theorem State.present_port : (s.present w).port q = s.port q := by cases q <;> rfl

/-! ### `drive` -/

@[simp] theorem State.drive_focus : (s.drive p x lv).focus = s.focus := by simp [State.drive, Config.bind]
@[simp] theorem State.drive_busy : (s.drive p x lv).busy = s.busy := by simp [State.drive, Config.bind]
@[simp] theorem State.drive_scratch : (s.drive p x lv).scratch = s.scratch := by simp [State.drive, Config.bind]
@[simp] theorem State.drive_result : (s.drive p x lv).result = s.result := by simp [State.drive, Config.bind]
@[simp] theorem State.drive_faults : (s.drive p x lv).faults = s.faults := by simp [State.drive, Config.bind]
@[simp] theorem State.drive_params : (s.drive p x lv).params = s.params := by simp [State.drive, Config.bind]
@[simp] theorem State.drive_requests : (s.drive p x lv).requests = s.requests := by simp [State.drive, Config.bind]
@[simp] theorem State.drive_resets : (s.drive p x lv).resets = s.resets := by simp [State.drive, Config.bind]
@[simp] theorem State.drive_draws : (s.drive p x lv).draws = s.draws := by simp [State.drive, Config.bind]
@[simp] theorem State.drive_free : (s.drive p x lv).free = s.free := by simp [State.drive, Config.bind]
@[simp] theorem State.drive_wave : (s.drive p x lv).wave = LineEvent.drive ⟨p, x⟩ lv :: s.wave := by simp [State.drive, Config.bind]
@[simp] theorem State.drive_port_chip : ((s.drive p x lv).port p).chip = (s.port p).chip := by cases x <;> simp [State.drive, PortState.setLine]
@[simp] theorem State.drive_port_written : ((s.drive p x lv).port p).written = (s.port p).written := by cases x <;> simp [State.drive, PortState.setLine]
@[simp] theorem State.drive_port_mode : ((s.drive p x lv).port p).mode = (s.port p).mode := by cases x <;> simp [State.drive, PortState.setLine]
@[simp] theorem State.drive_port_framePhase : ((s.drive p x lv).port p).framePhase = (s.port p).framePhase := by cases x <;> simp [State.drive, PortState.setLine]
@[simp] theorem State.drive_port_settle : ((s.drive p x lv).port p).settle = (s.port p).settle := by cases x <;> simp [State.drive, PortState.setLine]
@[simp] theorem State.drive_rst_port_rst : ((s.drive p .rst lv).port p).rst = ⟨.output, lv⟩ := by simp [State.drive, PortState.setLine]
@[simp] theorem State.drive_rst_port_clk : ((s.drive p .rst lv).port p).clk = (s.port p).clk := by simp [State.drive, PortState.setLine]
@[simp] theorem State.drive_rst_port_dout : ((s.drive p .rst lv).port p).dout = (s.port p).dout := by simp [State.drive, PortState.setLine]
@[simp] theorem State.drive_rst_port_din : ((s.drive p .rst lv).port p).din = (s.port p).din := by simp [State.drive, PortState.setLine]
@[simp] theorem State.drive_clk_port_rst : ((s.drive p .clk lv).port p).rst = (s.port p).rst := by simp [State.drive, PortState.setLine]
@[simp] theorem State.drive_clk_port_clk : ((s.drive p .clk lv).port p).clk = ⟨.output, lv⟩ := by simp [State.drive, PortState.setLine]
@[simp] theorem State.drive_clk_port_dout : ((s.drive p .clk lv).port p).dout = (s.port p).dout := by simp [State.drive, PortState.setLine]
@[simp] theorem State.drive_clk_port_din : ((s.drive p .clk lv).port p).din = (s.port p).din := by simp [State.drive, PortState.setLine]
@[simp] theorem State.drive_dout_port_rst : ((s.drive p .dout lv).port p).rst = (s.port p).rst := by simp [State.drive, PortState.setLine]
@[simp] theorem State.drive_dout_port_clk : ((s.drive p .dout lv).port p).clk = (s.port p).clk := by simp [State.drive, PortState.setLine]
@[simp] theorem State.drive_dout_port_dout : ((s.drive p .dout lv).port p).dout = ⟨.output, lv⟩ := by simp [State.drive, PortState.setLine]
@[simp] theorem State.drive_dout_port_din : ((s.drive p .dout lv).port p).din = (s.port p).din := by simp [State.drive, PortState.setLine]
@[simp] theorem State.drive_port_attached : ((s.drive p x lv).port p).attached =
    (s.port p).attached.sees s.params.erasedByte x ((s.port p).line x) lv (s.port p).dout.lvl (Config.envDin p s.draws) := by
  simp [State.drive]
@[simp] theorem State.drive_port_other : (s.drive p x lv).port p.other = s.port p.other := by simp [State.drive]
@[simp] theorem State.drive_other_port : (s.drive p.other x lv).port p = s.port p := by simp [State.drive]

/-! ### `release` -/

@[simp] theorem State.release_focus : (s.release p x).focus = s.focus := by simp [State.release, Config.bind]
@[simp] theorem State.release_busy : (s.release p x).busy = s.busy := by simp [State.release, Config.bind]
@[simp] theorem State.release_scratch : (s.release p x).scratch = s.scratch := by simp [State.release, Config.bind]
@[simp] theorem State.release_result : (s.release p x).result = s.result := by simp [State.release, Config.bind]
@[simp] theorem State.release_faults : (s.release p x).faults = s.faults := by simp [State.release, Config.bind]
@[simp] theorem State.release_params : (s.release p x).params = s.params := by simp [State.release, Config.bind]
@[simp] theorem State.release_requests : (s.release p x).requests = s.requests := by simp [State.release, Config.bind]
@[simp] theorem State.release_resets : (s.release p x).resets = s.resets := by simp [State.release, Config.bind]
@[simp] theorem State.release_draws : (s.release p x).draws = s.draws := by simp [State.release, Config.bind]
@[simp] theorem State.release_free : (s.release p x).free = s.free := by simp [State.release, Config.bind]
@[simp] theorem State.release_wave : (s.release p x).wave = LineEvent.release ⟨p, x⟩ :: s.wave := by simp [State.release, Config.bind]
@[simp] theorem State.release_port_chip : ((s.release p x).port p).chip = (s.port p).chip := by cases x <;> simp [State.release, PortState.setLine]
@[simp] theorem State.release_port_written : ((s.release p x).port p).written = (s.port p).written := by cases x <;> simp [State.release, PortState.setLine]
@[simp] theorem State.release_port_mode : ((s.release p x).port p).mode = (s.port p).mode := by cases x <;> simp [State.release, PortState.setLine]
@[simp] theorem State.release_port_framePhase : ((s.release p x).port p).framePhase = (s.port p).framePhase := by cases x <;> simp [State.release, PortState.setLine]
@[simp] theorem State.release_port_settle : ((s.release p x).port p).settle = (s.port p).settle := by cases x <;> simp [State.release, PortState.setLine]
@[simp] theorem State.release_port_attached : ((s.release p x).port p).attached = (s.port p).attached := by cases x <;> simp [State.release, PortState.setLine]
@[simp] theorem State.release_rst_port_rst : ((s.release p .rst).port p).rst = ⟨.input, (s.port p).rst.lvl⟩ := by simp [State.release, PortState.setLine, PortState.line]
@[simp] theorem State.release_rst_port_clk : ((s.release p .rst).port p).clk = (s.port p).clk := by simp [State.release, PortState.setLine, PortState.line]
@[simp] theorem State.release_rst_port_dout : ((s.release p .rst).port p).dout = (s.port p).dout := by simp [State.release, PortState.setLine, PortState.line]
@[simp] theorem State.release_rst_port_din : ((s.release p .rst).port p).din = (s.port p).din := by simp [State.release, PortState.setLine, PortState.line]
@[simp] theorem State.release_clk_port_rst : ((s.release p .clk).port p).rst = (s.port p).rst := by simp [State.release, PortState.setLine, PortState.line]
@[simp] theorem State.release_clk_port_clk : ((s.release p .clk).port p).clk = ⟨.input, (s.port p).clk.lvl⟩ := by simp [State.release, PortState.setLine, PortState.line]
@[simp] theorem State.release_clk_port_dout : ((s.release p .clk).port p).dout = (s.port p).dout := by simp [State.release, PortState.setLine, PortState.line]
@[simp] theorem State.release_clk_port_din : ((s.release p .clk).port p).din = (s.port p).din := by simp [State.release, PortState.setLine, PortState.line]
@[simp] theorem State.release_dout_port_rst : ((s.release p .dout).port p).rst = (s.port p).rst := by simp [State.release, PortState.setLine, PortState.line]
@[simp] theorem State.release_dout_port_clk : ((s.release p .dout).port p).clk = (s.port p).clk := by simp [State.release, PortState.setLine, PortState.line]
@[simp] theorem State.release_dout_port_dout : ((s.release p .dout).port p).dout = ⟨.input, (s.port p).dout.lvl⟩ := by simp [State.release, PortState.setLine, PortState.line]
@[simp] theorem State.release_dout_port_din : ((s.release p .dout).port p).din = (s.port p).din := by simp [State.release, PortState.setLine, PortState.line]
@[simp] theorem State.release_din_port_rst : ((s.release p .din).port p).rst = (s.port p).rst := by simp [State.release, PortState.setLine, PortState.line]
@[simp] theorem State.release_din_port_clk : ((s.release p .din).port p).clk = (s.port p).clk := by simp [State.release, PortState.setLine, PortState.line]
@[simp] theorem State.release_din_port_dout : ((s.release p .din).port p).dout = (s.port p).dout := by simp [State.release, PortState.setLine, PortState.line]
@[simp] theorem State.release_din_port_din : ((s.release p .din).port p).din = ⟨.input, (s.port p).din.lvl⟩ := by simp [State.release, PortState.setLine, PortState.line]
@[simp] theorem State.release_port_other : (s.release p x).port p.other = s.port p.other := by simp [State.release]
@[simp] theorem State.release_other_port : (s.release p.other x).port p = s.port p := by simp [State.release]

/-! ### `sampled` -/

@[simp] theorem State.sampled_focus : (s.sampled p).focus = s.focus := by simp [State.sampled]
@[simp] theorem State.sampled_busy : (s.sampled p).busy = s.busy := by simp [State.sampled]
@[simp] theorem State.sampled_scratch : (s.sampled p).scratch = s.scratch := by simp [State.sampled]
@[simp] theorem State.sampled_result : (s.sampled p).result = s.result := by simp [State.sampled]
@[simp] theorem State.sampled_faults : (s.sampled p).faults = s.faults := by simp [State.sampled]
@[simp] theorem State.sampled_params : (s.sampled p).params = s.params := by simp [State.sampled]
@[simp] theorem State.sampled_requests : (s.sampled p).requests = s.requests := by simp [State.sampled]
@[simp] theorem State.sampled_resets : (s.sampled p).resets = s.resets := by simp [State.sampled]
@[simp] theorem State.sampled_draws : (s.sampled p).draws = s.draws + 1 := by simp [State.sampled]
@[simp] theorem State.sampled_free : (s.sampled p).free = s.free := by simp [State.sampled]
@[simp] theorem State.sampled_wave : (s.sampled p).wave = .sample p (s.dinLevel p) :: s.wave := by simp [State.sampled]
@[simp] theorem State.sampled_port_chip : ((s.sampled p).port p).chip = (s.port p).chip := by simp [State.sampled]
@[simp] theorem State.sampled_port_written : ((s.sampled p).port p).written = (s.port p).written := by simp [State.sampled]
@[simp] theorem State.sampled_port_mode : ((s.sampled p).port p).mode = (s.port p).mode := by simp [State.sampled]
@[simp] theorem State.sampled_port_framePhase : ((s.sampled p).port p).framePhase = (s.port p).framePhase := by simp [State.sampled]
@[simp] theorem State.sampled_port_settle : ((s.sampled p).port p).settle = (s.port p).settle := by simp [State.sampled]
@[simp] theorem State.sampled_port_rst : ((s.sampled p).port p).rst = (s.port p).rst := by simp [State.sampled]
@[simp] theorem State.sampled_port_clk : ((s.sampled p).port p).clk = (s.port p).clk := by simp [State.sampled]
@[simp] theorem State.sampled_port_dout : ((s.sampled p).port p).dout = (s.port p).dout := by simp [State.sampled]
@[simp] theorem State.sampled_port_din : ((s.sampled p).port p).din = (s.port p).din := by simp [State.sampled]
@[simp] theorem State.sampled_port_attached : ((s.sampled p).port p).attached = (s.port p).attached.sampled := by simp [State.sampled]
@[simp] theorem State.sampled_port_other : (s.sampled p).port p.other = s.port p.other := by simp [State.sampled]
@[simp] theorem State.sampled_other_port : (s.sampled p.other).port p = s.port p := by simp [State.sampled]

/-! ### `settleOwed` -/

theorem State.settleOwed_iff : s.settleOwed = true ↔ ∃ q, 0 < (s.port q).settle := by
  constructor
  · intro h
    rcases Bool.or_eq_true_iff.mp h with h | h
    · exact ⟨.socket, of_decide_eq_true h⟩
    · exact ⟨.bus, of_decide_eq_true h⟩
  · rintro ⟨q, h⟩
    cases q <;> simp [State.settleOwed, State.port] at h ⊢ <;> omega
theorem State.settleOwed_eq_false_iff : s.settleOwed = false ↔ ∀ q, (s.port q).settle = 0 := by
  rw [← Bool.not_eq_true, s.settleOwed_iff]
  push Not
  exact forall_congr' fun q => Nat.le_zero

end Sys2Proof.Machine
end

