-- ==== Sys2Proof/Laws/Shift.lean ====
section
/-! SUPPORT. What one bit, one byte and one frame on the wire do: everything at once, so that no later proof unfolds the
shift again. -/

namespace Sys2Proof.Machine

open Sys2Proof.Config (Scratch ByteRegs)

/-! ### KeptByShift is a preorder -/

theorem KeptByShift.refl (p : Port) (s : State) : KeptByShift p s s := by
  constructor <;> rfl

theorem KeptByShift.trans {p : Port} {s t u : State} (h : KeptByShift p s t) (k : KeptByShift p t u) :
    KeptByShift p s u := by
  constructor
  · exact k.focus.trans h.focus
  · exact k.busy.trans h.busy
  · exact k.result.trans h.result
  · exact k.faults.trans h.faults
  · exact k.params.trans h.params
  · exact k.requests.trans h.requests
  · exact k.resets.trans h.resets
  · exact k.free.trans h.free
  · exact k.other.trans h.other
  · exact k.rst.trans h.rst
  · exact k.din.trans h.din
  · exact k.chip.trans h.chip
  · exact k.written.trans h.written
  · exact k.mode.trans h.mode
  · exact k.framePhase.trans h.framePhase
  · exact k.settle.trans h.settle

theorem KeptByShift.setScratch (p : Port) (s : State) (k : Scratch) : KeptByShift p s (s.setScratch k) := by
  constructor <;> simp

theorem KeptByShift.driveClk (p : Port) (s : State) (v : Level) : KeptByShift p s (s.drive p .clk v) := by
  constructor <;> simp

theorem KeptByShift.driveDout (p : Port) (s : State) (v : Level) : KeptByShift p s (s.drive p .dout v) := by
  constructor <;> simp

/-! ### Bytes and their bits -/

theorem wireBits_putBits : ∀ b7 b6 b5 b4 b3 b2 b1 b0 : Bool,
    wireBits (putBit (putBit (putBit (putBit (putBit (putBit (putBit (putBit 0 7 b7) 6 b6) 5 b5) 4 b4) 3 b3) 2 b2) 1 b1) 0 b0)
      = [b7, b6, b5, b4, b3, b2, b1, b0] := by decide

theorem wireBits_injective {a b : Byte} (h : wireBits a = wireBits b) : a = b := by
  simp only [wireBits, List.range, List.range.loop, List.map, List.cons.injEq, and_true] at h
  obtain ⟨h7, h6, h5, h4, h3, h2, h1, h0⟩ := h
  refine BitVec.eq_of_getLsbD_eq fun i hi => ?_
  interval_cases i
  exacts [h0, h1, h2, h3, h4, h5, h6, h7]

theorem wireBits_eq (v : Byte) : wireBits v =
    [v.getLsbD 7, v.getLsbD 6, v.getLsbD 5, v.getLsbD 4, v.getLsbD 3, v.getLsbD 2, v.getLsbD 1, v.getLsbD 0] := rfl

theorem wireBits_length (v : Byte) : (wireBits v).length = 8 := rfl

/-- The k-th bit on the wire is bit 7 − k. -/
theorem wireBits_get (v : Byte) (k : Nat) (hk : k < 8) : (wireBits v)[k]? = some (v.getLsbD (7 - k)) := by
  rw [wireBits, List.getElem?_map, List.getElem?_range hk]
  rfl

theorem byteOfSamples_wireBits : ∀ v : Byte, byteOfSamples (wireBits v) = v := by
  decide +kernel

/-! ### One bit -/

/-- The state of `shiftBit` at the instant of its sample. -/
def State.atSample (s : State) (p : Port) (i : Fin 8) : State :=
  ((((s.setScratch { s.scratch with bitIdx := i }).drive p .clk .low).drive p .dout
    (levelOf (s.scratch.srOut.getLsbD i.val))).delayUs s.params.tHalfUs).drive p .clk .high

/-- The level `shiftBit` samples. -/
def State.bitIn (s : State) (p : Port) (i : Fin 8) : Bool := (s.atSample p i).dinLevel p

theorem State.shiftBit_eq (s : State) (p : Port) (i : Fin 8) :
    s.shiftBit p i = (((s.atSample p i).sampled p).setScratch
      { s.scratch with bitIdx := i, srIn := putBit s.scratch.srIn i (s.bitIn p i) }).delayUs s.params.tHalfUs := by
  simp [State.shiftBit, State.atSample, State.bitIn]

theorem State.shiftBit_kept (s : State) (p : Port) (i : Fin 8) : KeptByShift p s (s.shiftBit p i) := by
  rw [State.shiftBit_eq]
  constructor <;> simp [State.atSample]

theorem State.shiftBit_scratch (s : State) (p : Port) (i : Fin 8) : (s.shiftBit p i).scratch =
    { s.scratch with bitIdx := i, srIn := putBit s.scratch.srIn i (s.bitIn p i) } := by
  simp [State.shiftBit_eq]

theorem State.shiftBit_draws (s : State) (p : Port) (i : Fin 8) : (s.shiftBit p i).draws = s.draws + 1 := by
  simp [State.shiftBit_eq, State.atSample]

theorem State.shiftBit_clk (s : State) (p : Port) (i : Fin 8) :
    ((s.shiftBit p i).port p).clk = ⟨.output, .high⟩ := by
  simp [State.shiftBit_eq, State.atSample]

theorem State.shiftBit_dout (s : State) (p : Port) (i : Fin 8) :
    ((s.shiftBit p i).port p).dout = ⟨.output, levelOf (s.scratch.srOut.getLsbD i.val)⟩ := by
  simp [State.shiftBit_eq, State.atSample]

theorem State.shiftBit_wave (s : State) (p : Port) (i : Fin 8) : (s.shiftBit p i).wave =
    (bitWave p s.params.tHalfUs (s.scratch.srOut.getLsbD i.val) (s.bitIn p i)).reverse ++ s.wave := by
  simp [State.shiftBit_eq, State.atSample, State.bitIn, bitWave]

/-! ### One byte -/

/-- The state of `shift8` before its last action, with the eight samples named. -/
def State.bits8 (s : State) (p : Port) (out : Byte) : State :=
  (((((((((s.setScratch { s.scratch with srOut := out, srIn := 0 }).shiftBit p 7).shiftBit p 6).shiftBit p 5).shiftBit p
    4).shiftBit p 3).shiftBit p 2).shiftBit p 1).shiftBit p 0)

theorem State.shift8_eq (s : State) (p : Port) (out : Byte) : s.shift8 p out = (s.bits8 p out).drive p .clk .low := rfl

/-- The byte `shift8` receives. -/
def State.byteIn (s : State) (p : Port) (out : Byte) : Byte := (s.shift8 p out).scratch.srIn

theorem State.shift8_kept (s : State) (p : Port) (out : Byte) : KeptByShift p s (s.shift8 p out) := by
  rw [State.shift8_eq]
  refine KeptByShift.trans ?_ (KeptByShift.driveClk p _ _)
  refine (KeptByShift.setScratch p s { s.scratch with srOut := out, srIn := 0 }).trans ?_
  refine (State.shiftBit_kept _ p 7).trans ?_
  refine (State.shiftBit_kept _ p 6).trans ?_
  refine (State.shiftBit_kept _ p 5).trans ?_
  refine (State.shiftBit_kept _ p 4).trans ?_
  refine (State.shiftBit_kept _ p 3).trans ?_
  refine (State.shiftBit_kept _ p 2).trans ?_
  exact (State.shiftBit_kept _ p 1).trans (State.shiftBit_kept _ p 0)

theorem State.shift8_scratch (s : State) (p : Port) (out : Byte) : (s.shift8 p out).scratch =
    { s.scratch with bitIdx := 0, srOut := out, srIn := s.byteIn p out } := by
  simp [State.byteIn, State.shift8_eq, State.bits8, State.shiftBit_scratch]

theorem State.shift8_draws (s : State) (p : Port) (out : Byte) : (s.shift8 p out).draws = s.draws + 8 := by
  simp [State.shift8_eq, State.bits8, State.shiftBit_draws]

theorem State.shift8_clk (s : State) (p : Port) (out : Byte) :
    ((s.shift8 p out).port p).clk = ⟨.output, .low⟩ := by
  simp [State.shift8_eq]

theorem State.shift8_dout (s : State) (p : Port) (out : Byte) :
    ((s.shift8 p out).port p).dout = ⟨.output, levelOf (out.getLsbD 0)⟩ := by
  simp [State.shift8_eq, State.bits8, State.shiftBit_dout, State.shiftBit_scratch]

/-- The state of `shift8` once k bits have gone, bit 7 first. -/
def State.afterBits (s : State) (p : Port) (out : Byte) : Nat → State
  | 0 => s.setScratch { s.scratch with srOut := out, srIn := 0 }
  | k + 1 => (s.afterBits p out k).shiftBit p (Fin.ofNat 8 (7 - k))

/-- The k-th level sampled by `shift8`, in time order. -/
def State.sampleOf (s : State) (p : Port) (out : Byte) (k : Nat) : Bool :=
  (s.afterBits p out k).bitIn p (Fin.ofNat 8 (7 - k))

theorem State.bits8_eq (s : State) (p : Port) (out : Byte) : s.bits8 p out = s.afterBits p out 8 := rfl

/-- The k-th sample becomes bit 7 − k (40_bit_channel.md R103). -/
theorem State.wireBits_byteIn (s : State) (p : Port) (out : Byte) : wireBits (s.byteIn p out) =
    [s.sampleOf p out 0, s.sampleOf p out 1, s.sampleOf p out 2, s.sampleOf p out 3, s.sampleOf p out 4, s.sampleOf p out 5,
      s.sampleOf p out 6, s.sampleOf p out 7] := by
  simp only [State.byteIn, State.shift8_eq, State.bits8, State.shiftBit_scratch, State.setScratch_scratch,
    State.drive_scratch]
  exact wireBits_putBits _ _ _ _ _ _ _ _

theorem State.shift8_wave (s : State) (p : Port) (out : Byte) : (s.shift8 p out).wave =
    (byteWave p s.params.tHalfUs out (s.byteIn p out)).reverse ++ s.wave := by
  have hp : ∀ (t : State) (i : Fin 8), (t.shiftBit p i).params = t.params := fun t i => (t.shiftBit_kept p i).params
  rw [byteWave, State.wireBits_byteIn, wireBits_eq]
  simp [State.shift8_eq, State.bits8, State.shiftBit_wave, State.shiftBit_scratch, hp, bitWave, State.sampleOf,
    State.afterBits]
  exact ⟨rfl, rfl⟩

/-! ### One frame -/

/-- The state of `shiftFrame` once k bytes have gone. -/
def State.afterBytes (s : State) (p : Port) (f : Frame) : Nat → State
  | 0 => s.setScratch { s.scratch with cmd := regsOfFrame f }
  | k + 1 => (s.afterBytes p f k).shiftByte p (Fin.ofNat 4 k)

theorem State.shiftFrame_eq (s : State) (p : Port) (f : Frame) : s.shiftFrame p f = s.afterBytes p f 4 := rfl

/-- The byte received while byte k goes out. -/
def State.answerOf (s : State) (p : Port) (f : Frame) (k : Nat) : Byte :=
  ((s.afterBytes p f k).setScratch { (s.afterBytes p f k).scratch with byteIdx := Fin.ofNat 4 k }).byteIn p
    (regAt (regsOfFrame f) (Fin.ofNat 4 k))

/-- The frame `shiftFrame` receives. -/
def State.frameIn (s : State) (p : Port) (f : Frame) : Frame :=
  packFrame (s.answerOf p f 0) (s.answerOf p f 1) (s.answerOf p f 2) (s.answerOf p f 3)

theorem State.shiftByte_kept (s : State) (p : Port) (k : Fin 4) : KeptByShift p s (s.shiftByte p k) :=
  ((KeptByShift.setScratch p s { s.scratch with byteIdx := k }).trans (State.shift8_kept _ p _)).trans
    (KeptByShift.setScratch p _ _)

theorem State.afterBytes_kept (s : State) (p : Port) (f : Frame) : ∀ k, KeptByShift p s (s.afterBytes p f k)
  | 0 => KeptByShift.setScratch p s _
  | k + 1 => (s.afterBytes_kept p f k).trans (State.shiftByte_kept _ p _)

theorem State.shiftFrame_kept (s : State) (p : Port) (f : Frame) : KeptByShift p s (s.shiftFrame p f) :=
  s.afterBytes_kept p f 4

theorem State.shiftByte_cmd (s : State) (p : Port) (k : Fin 4) : (s.shiftByte p k).scratch.cmd = s.scratch.cmd := by
  simp [State.shiftByte, State.shift8_scratch]

theorem State.afterBytes_cmd (s : State) (p : Port) (f : Frame) : ∀ k, (s.afterBytes p f k).scratch.cmd = regsOfFrame f
  | 0 => by simp [State.afterBytes]
  | k + 1 => by rw [State.afterBytes, State.shiftByte_cmd, s.afterBytes_cmd p f k]

theorem State.afterBytes_rsp (s : State) (p : Port) (f : Frame) (k : Nat) : (s.afterBytes p f (k + 1)).scratch.rsp =
    putReg (s.afterBytes p f k).scratch.rsp (Fin.ofNat 4 k) (s.answerOf p f k) := by
  simp [State.afterBytes, State.shiftByte, State.shift8_scratch, State.answerOf, s.afterBytes_cmd p f k]

theorem State.shiftFrame_received (s : State) (p : Port) (f : Frame) : (s.shiftFrame p f).received = s.frameIn p f := by
  rw [State.received, State.shiftFrame_eq, State.afterBytes_rsp, State.afterBytes_rsp, State.afterBytes_rsp,
    State.afterBytes_rsp]
  rfl

theorem State.shiftByte_draws (s : State) (p : Port) (k : Fin 4) : (s.shiftByte p k).draws = s.draws + 8 := by
  simp [State.shiftByte, State.shift8_draws]

theorem State.afterBytes_draws (s : State) (p : Port) (f : Frame) : ∀ k, (s.afterBytes p f k).draws = s.draws + 8 * k
  | 0 => by simp [State.afterBytes]
  | k + 1 => by rw [State.afterBytes, State.shiftByte_draws, s.afterBytes_draws p f k]; omega

theorem State.shiftFrame_draws (s : State) (p : Port) (f : Frame) : (s.shiftFrame p f).draws = s.draws + 32 :=
  s.afterBytes_draws p f 4

theorem State.shiftByte_clk (s : State) (p : Port) (k : Fin 4) : ((s.shiftByte p k).port p).clk = ⟨.output, .low⟩ := by
  simp [State.shiftByte, State.shift8_clk]

theorem State.shiftByte_dout (s : State) (p : Port) (k : Fin 4) : ((s.shiftByte p k).port p).dout =
    ⟨.output, levelOf ((regAt s.scratch.cmd k).getLsbD 0)⟩ := by
  simp [State.shiftByte, State.shift8_dout]

theorem State.shiftFrame_clk (s : State) (p : Port) (f : Frame) :
    ((s.shiftFrame p f).port p).clk = ⟨.output, .low⟩ := State.shiftByte_clk _ p 3

theorem State.shiftFrame_dout (s : State) (p : Port) (f : Frame) :
    ((s.shiftFrame p f).port p).dout = ⟨.output, levelOf ((frameB3 f).getLsbD 0)⟩ := by
  have h : s.shiftFrame p f = (s.afterBytes p f 3).shiftByte p 3 := rfl
  rw [h, State.shiftByte_dout, s.afterBytes_cmd p f 3]
  rfl

theorem State.afterBytes_wave (s : State) (p : Port) (f : Frame) (k : Nat) : (s.afterBytes p f (k + 1)).wave =
    (byteWave p s.params.tHalfUs (regAt (regsOfFrame f) (Fin.ofNat 4 k)) (s.answerOf p f k)).reverse ++
      (s.afterBytes p f k).wave := by
  simp [State.afterBytes, State.shiftByte, State.shift8_wave, State.answerOf, s.afterBytes_cmd p f k,
    (s.afterBytes_kept p f k).params]

theorem State.shiftFrame_wave (s : State) (p : Port) (f : Frame) : (s.shiftFrame p f).wave =
    (frameWave p s.params.tHalfUs f (s.frameIn p f)).reverse ++ s.wave := by
  rw [State.shiftFrame_eq, State.afterBytes_wave, State.afterBytes_wave, State.afterBytes_wave, State.afterBytes_wave]
  simp only [frameWave, State.frameIn, frameB0_pack, frameB1_pack, frameB2_pack, frameB3_pack, List.reverse_append,
    List.append_assoc]
  rfl

end Sys2Proof.Machine
end

