-- ==== Sys2Proof/Laws/Attached.lean ====
section
/-! SUPPORT. What a byte and a frame on the wire receive, for each thing that may be attached to the port. -/

namespace Sys2Proof.Machine

/-! ### One bit -/

theorem State.atSample_attached (s : State) (p : Port) (i : Fin 8) : ((s.atSample p i).port p).attached =
    ((((s.port p).attached.sees s.params.erasedByte .clk (s.port p).clk .low (s.port p).dout.lvl
      (Config.envDin p s.draws)).sees s.params.erasedByte .dout (s.port p).dout
        (levelOf (s.scratch.srOut.getLsbD i.val)) (s.port p).dout.lvl (Config.envDin p s.draws)).sees
          s.params.erasedByte .clk ⟨.output, .low⟩ .high (levelOf (s.scratch.srOut.getLsbD i.val))
            (Config.envDin p s.draws)) := by
  simp [State.atSample, PortState.line]

theorem State.shiftBit_attached (s : State) (p : Port) (i : Fin 8) :
    ((s.shiftBit p i).port p).attached = ((s.atSample p i).port p).attached.sampled := by
  simp [State.shiftBit_eq]

theorem State.atSample_dout (s : State) (p : Port) (i : Fin 8) :
    ((s.atSample p i).port p).dout = ⟨.output, levelOf (s.scratch.srOut.getLsbD i.val)⟩ := by
  simp [State.atSample]

theorem State.atSample_draws (s : State) (p : Port) (i : Fin 8) : (s.atSample p i).draws = s.draws := by
  simp [State.atSample]

theorem State.bitIn_env (s : State) (p : Port) (i : Fin 8) (l : List Bool) (h : (s.port p).attached = .env l) :
    s.bitIn p i = l.headD (Config.envDin p s.draws) ∧ ((s.shiftBit p i).port p).attached = .env l.tail := by
  have ha : ((s.atSample p i).port p).attached = .env l := by rw [s.atSample_attached, h]; rfl
  rw [s.shiftBit_attached, ha]
  refine ⟨?_, rfl⟩
  rw [State.bitIn, State.dinLevel, ha, s.atSample_draws]
  cases l <;> rfl

theorem State.bitIn_stuck (s : State) (p : Port) (i : Fin 8) (b : Bool) (h : (s.port p).attached = .stuck b) :
    s.bitIn p i = b ∧ ((s.shiftBit p i).port p).attached = .stuck b := by
  have ha : ((s.atSample p i).port p).attached = .stuck b := by rw [s.atSample_attached, h]; rfl
  rw [s.shiftBit_attached, ha]
  refine ⟨?_, rfl⟩
  rw [State.bitIn, State.dinLevel, ha]

theorem levelOf_resolve (b free : Bool) : (levelOf b).resolve free = b := by cases b <;> rfl

theorem State.bitIn_loop (s : State) (p : Port) (i : Fin 8) (h : (s.port p).attached = .loop) :
    s.bitIn p i = s.scratch.srOut.getLsbD i.val ∧ ((s.shiftBit p i).port p).attached = .loop := by
  have ha : ((s.atSample p i).port p).attached = .loop := by rw [s.atSample_attached, h]; rfl
  rw [s.shiftBit_attached, ha]
  refine ⟨?_, rfl⟩
  rw [State.bitIn, State.dinLevel, ha, s.atSample_dout]
  exact levelOf_resolve _ _

/-- The reference target between two bits: a CLK line still high falls first. -/
def Target.settleClk (erased : Byte) (clk : LineState) (t : Target) : Target :=
  if clk = ⟨.output, .high⟩ then t.clkFall erased else t

theorem Target.dinLevel_clkRise (free : Bool) (t : Target) (b : Bool) : (t.clkRise b).dinLevel free = t.dinLevel free := by
  rw [Target.clkRise]
  split
  · rfl
  · rfl

theorem State.bitIn_chip (s : State) (p : Port) (i : Fin 8) (t : Target) (h : (s.port p).attached = .chip t) :
    s.bitIn p i = (t.settleClk s.params.erasedByte (s.port p).clk).dinLevel (Config.envDin p s.draws) ∧
      ((s.shiftBit p i).port p).attached =
        .chip ((t.settleClk s.params.erasedByte (s.port p).clk).clkRise (s.scratch.srOut.getLsbD i.val)) := by
  have ha : ((s.atSample p i).port p).attached =
      .chip ((t.settleClk s.params.erasedByte (s.port p).clk).clkRise (s.scratch.srOut.getLsbD i.val)) := by
    rw [s.atSample_attached, h]
    simp [Attached.sees, Target.sees, Target.settleClk, levelOf_resolve]
  rw [s.shiftBit_attached, ha]
  refine ⟨?_, rfl⟩
  rw [State.bitIn, State.dinLevel, ha, s.atSample_draws]
  exact Target.dinLevel_clkRise _ _ _

/-! ### One byte -/

theorem State.afterBits_srOut (s : State) (p : Port) (out : Byte) : ∀ k, (s.afterBits p out k).scratch.srOut = out
  | 0 => by simp [State.afterBits]
  | k + 1 => by rw [State.afterBits, State.shiftBit_scratch]; exact s.afterBits_srOut p out k

theorem State.afterBits_draws (s : State) (p : Port) (out : Byte) : ∀ k, (s.afterBits p out k).draws = s.draws + k
  | 0 => by simp [State.afterBits]
  | k + 1 => by rw [State.afterBits, State.shiftBit_draws, s.afterBits_draws p out k]; omega

theorem State.afterBits_params (s : State) (p : Port) (out : Byte) : ∀ k, (s.afterBits p out k).params = s.params
  | 0 => by simp [State.afterBits]
  | k + 1 => by rw [State.afterBits, (State.shiftBit_kept _ p _).params, s.afterBits_params p out k]

theorem State.shift8_attached (s : State) (p : Port) (out : Byte) : ((s.shift8 p out).port p).attached =
    ((s.afterBits p out 8).port p).attached.sees s.params.erasedByte .clk ⟨.output, .high⟩ .low
      (levelOf (out.getLsbD 0)) (Config.envDin p (s.draws + 8)) := by
  have hc : ((s.afterBits p out 8).port p).clk = ⟨.output, .high⟩ := State.shiftBit_clk _ p _
  have hd : ((s.afterBits p out 8).port p).dout = ⟨.output, levelOf (out.getLsbD 0)⟩ := by
    have := State.shiftBit_dout (s.afterBits p out 7) p 0
    rw [s.afterBits_srOut p out 7] at this
    exact this
  rw [State.shift8_eq, s.bits8_eq, State.drive_port_attached, s.afterBits_params, s.afterBits_draws]
  simp [PortState.line, hc, hd]

/-- The environment's foretold levels, then free draws. -/
theorem State.sampleOf_env (s : State) (p : Port) (out : Byte) (l : List Bool) (h : (s.port p).attached = .env l) :
    ∀ k, s.sampleOf p out k = (l.drop k).headD (Config.envDin p (s.draws + k)) ∧
      ((s.afterBits p out k).port p).attached = .env (l.drop k) := by
  intro k
  have hk : ((s.afterBits p out k).port p).attached = .env (l.drop k) := by
    induction k with
    | zero => simpa [State.afterBits] using h
    | succ k ih =>
      rw [State.afterBits, (State.bitIn_env _ p _ _ ih).2, List.tail_drop]
  refine ⟨?_, hk⟩
  rw [State.sampleOf, (State.bitIn_env _ p _ _ hk).1, s.afterBits_draws]

theorem State.byteIn_env (s : State) (p : Port) (out inp : Byte) (rest : List Bool)
    (h : (s.port p).attached = .env (wireBits inp ++ rest)) :
    s.byteIn p out = inp ∧ ((s.shift8 p out).port p).attached = .env rest := by
  constructor
  · apply wireBits_injective
    rw [s.wireBits_byteIn, wireBits_eq]
    simp [s.sampleOf_env p out _ h, wireBits_eq]
  · rw [s.shift8_attached, (s.sampleOf_env p out _ h 8).2]
    simp [wireBits_eq, Attached.sees]

theorem State.byteIn_stuck (s : State) (p : Port) (out : Byte) (b : Bool) (h : (s.port p).attached = .stuck b) :
    s.byteIn p out = (if b then 0xFF else 0x00) ∧ ((s.shift8 p out).port p).attached = .stuck b := by
  have hk : ∀ k, ((s.afterBits p out k).port p).attached = .stuck b := by
    intro k
    induction k with
    | zero => simpa [State.afterBits] using h
    | succ k ih => rw [State.afterBits]; exact (State.bitIn_stuck _ p _ b ih).2
  constructor
  · apply wireBits_injective
    rw [s.wireBits_byteIn]
    simp only [State.sampleOf, (State.bitIn_stuck _ p _ b (hk _)).1]
    cases b <;> rfl
  · rw [s.shift8_attached, hk 8]; rfl

theorem State.byteIn_loop (s : State) (p : Port) (out : Byte) (h : (s.port p).attached = .loop) :
    s.byteIn p out = out ∧ ((s.shift8 p out).port p).attached = .loop := by
  have hk : ∀ k, ((s.afterBits p out k).port p).attached = .loop := by
    intro k
    induction k with
    | zero => simpa [State.afterBits] using h
    | succ k ih => rw [State.afterBits]; exact (State.bitIn_loop _ p _ ih).2
  constructor
  · apply wireBits_injective
    rw [s.wireBits_byteIn]
    simp only [State.sampleOf, (State.bitIn_loop _ p _ (hk _)).1, s.afterBits_srOut]
    rfl
  · rw [s.shift8_attached, hk 8]; rfl

/-! ### One frame -/

theorem State.shiftByte_attached (s : State) (p : Port) (k : Fin 4) : ((s.shiftByte p k).port p).attached =
    (((s.setScratch { s.scratch with byteIdx := k }).shift8 p (regAt s.scratch.cmd k)).port p).attached := by
  simp [State.shiftByte]

theorem State.afterBytes_attached (s : State) (p : Port) (f : Frame) (k : Nat) :
    ((s.afterBytes p f (k + 1)).port p).attached =
      ((((s.afterBytes p f k).setScratch { (s.afterBytes p f k).scratch with byteIdx := Fin.ofNat 4 k }).shift8 p
        (regAt (regsOfFrame f) (Fin.ofNat 4 k))).port p).attached := by
  rw [State.afterBytes, State.shiftByte_attached, s.afterBytes_cmd p f k]

theorem State.frameIn_env (s : State) (p : Port) (f inp : Frame) (rest : List Bool)
    (h : (s.port p).attached = .env (frameBits inp ++ rest)) :
    s.frameIn p f = inp ∧ ((s.shiftFrame p f).port p).attached = .env rest := by
  have step : ∀ (k : Nat) (b : Byte) (l : List Bool),
      ((s.afterBytes p f k).port p).attached = .env (wireBits b ++ l) →
        s.answerOf p f k = b ∧ ((s.afterBytes p f (k + 1)).port p).attached = .env l := by
    intro k b l hk
    rw [s.afterBytes_attached]
    exact State.byteIn_env _ p _ b l (by simpa using hk)
  have h0 : ((s.afterBytes p f 0).port p).attached = .env (wireBits (frameB0 inp) ++ (wireBits (frameB1 inp) ++
      (wireBits (frameB2 inp) ++ (wireBits (frameB3 inp) ++ rest)))) := by
    simpa [State.afterBytes, frameBits, List.append_assoc] using h
  obtain ⟨a0, h1⟩ := step 0 _ _ h0
  obtain ⟨a1, h2⟩ := step 1 _ _ h1
  obtain ⟨a2, h3⟩ := step 2 _ _ h2
  obtain ⟨a3, h4⟩ := step 3 _ _ h3
  refine ⟨?_, by rw [s.shiftFrame_eq]; exact h4⟩
  rw [State.frameIn, a0, a1, a2, a3, packFrame_bytes]

theorem State.frameIn_loop (s : State) (p : Port) (f : Frame) (h : (s.port p).attached = .loop) :
    s.frameIn p f = f ∧ ((s.shiftFrame p f).port p).attached = .loop := by
  have hk : ∀ k, ((s.afterBytes p f k).port p).attached = .loop := by
    intro k
    induction k with
    | zero => simpa [State.afterBytes] using h
    | succ k ih => rw [s.afterBytes_attached]; exact (State.byteIn_loop _ p _ (by simpa using ih)).2
  refine ⟨?_, by rw [s.shiftFrame_eq]; exact hk 4⟩
  have ha : ∀ k, s.answerOf p f k = regAt (regsOfFrame f) (Fin.ofNat 4 k) := fun k =>
    (State.byteIn_loop _ p _ (by simpa using hk k)).1
  rw [State.frameIn, ha, ha, ha, ha]
  exact packFrame_bytes f

end Sys2Proof.Machine
end

