-- ==== Sys2Proof/Laws/Operations.lean ====
section
/-! SUPPORT. What each composite operation does, field by field, said once: the body of TRANSACT, the RST strobe, the bodies of
ENTER_PROG_MODE, FOCUS and READ_SIG. -/

namespace Sys2Proof.Machine

/-! ### `sendCommand`: the body of TRANSACT (41_framer.md R120) -/

@[simp] theorem State.sendCommand_focus (s : State) (p : Port) (c : Instr) (f : Frame) : (s.sendCommand p c f).focus = s.focus := by
  simp [State.sendCommand, State.commandSent, (s.shiftFrame_kept p f).focus]
@[simp] theorem State.sendCommand_busy (s : State) (p : Port) (c : Instr) (f : Frame) : (s.sendCommand p c f).busy = s.busy := by
  simp [State.sendCommand, State.commandSent, (s.shiftFrame_kept p f).busy]
@[simp] theorem State.sendCommand_result (s : State) (p : Port) (c : Instr) (f : Frame) : (s.sendCommand p c f).result = s.result := by
  simp [State.sendCommand, State.commandSent, (s.shiftFrame_kept p f).result]
@[simp] theorem State.sendCommand_faults (s : State) (p : Port) (c : Instr) (f : Frame) : (s.sendCommand p c f).faults = s.faults := by
  simp [State.sendCommand, State.commandSent, (s.shiftFrame_kept p f).faults]
@[simp] theorem State.sendCommand_params (s : State) (p : Port) (c : Instr) (f : Frame) : (s.sendCommand p c f).params = s.params := by
  simp [State.sendCommand, State.commandSent, (s.shiftFrame_kept p f).params]
@[simp] theorem State.sendCommand_requests (s : State) (p : Port) (c : Instr) (f : Frame) : (s.sendCommand p c f).requests = s.requests := by
  simp [State.sendCommand, State.commandSent, (s.shiftFrame_kept p f).requests]
@[simp] theorem State.sendCommand_resets (s : State) (p : Port) (c : Instr) (f : Frame) : (s.sendCommand p c f).resets = s.resets := by
  simp [State.sendCommand, State.commandSent, (s.shiftFrame_kept p f).resets]
@[simp] theorem State.sendCommand_free (s : State) (p : Port) (c : Instr) (f : Frame) : (s.sendCommand p c f).free = s.free := by
  simp [State.sendCommand, State.commandSent, (s.shiftFrame_kept p f).free]
@[simp] theorem State.sendCommand_other (s : State) (p : Port) (c : Instr) (f : Frame) : (s.sendCommand p c f).port p.other = s.port p.other := by
  simp [State.sendCommand, State.commandSent, (s.shiftFrame_kept p f).other]
@[simp] theorem State.sendCommand_port_rst (s : State) (p : Port) (c : Instr) (f : Frame) : ((s.sendCommand p c f).port p).rst = (s.port p).rst := by
  simp [State.sendCommand, State.commandSent, (s.shiftFrame_kept p f).rst]
@[simp] theorem State.sendCommand_port_din (s : State) (p : Port) (c : Instr) (f : Frame) : ((s.sendCommand p c f).port p).din = (s.port p).din := by
  simp [State.sendCommand, State.commandSent, (s.shiftFrame_kept p f).din]
@[simp] theorem State.sendCommand_port_chip (s : State) (p : Port) (c : Instr) (f : Frame) : ((s.sendCommand p c f).port p).chip = (s.port p).chip := by
  simp [State.sendCommand, State.commandSent, (s.shiftFrame_kept p f).chip]
@[simp] theorem State.sendCommand_port_written (s : State) (p : Port) (c : Instr) (f : Frame) : ((s.sendCommand p c f).port p).written = (s.port p).written := by
  simp [State.sendCommand, State.commandSent, (s.shiftFrame_kept p f).written]
@[simp] theorem State.sendCommand_port_framePhase (s : State) (p : Port) (c : Instr) (f : Frame) : ((s.sendCommand p c f).port p).framePhase = (s.port p).framePhase := by
  simp [State.sendCommand, State.commandSent, (s.shiftFrame_kept p f).framePhase]
@[simp] theorem State.sendCommand_port_mode (s : State) (p : Port) (c : Instr) (f : Frame) : ((s.sendCommand p c f).port p).mode =
    if c = .progEn then .enableSent else (s.port p).mode := by
  simp [State.sendCommand, State.commandSent, (s.shiftFrame_kept p f).mode]
@[simp] theorem State.sendCommand_port_settle (s : State) (p : Port) (c : Instr) (f : Frame) : ((s.sendCommand p c f).port p).settle = settleOf s.params c := by
  simp [State.sendCommand, State.commandSent, (s.shiftFrame_kept p f).params]
@[simp] theorem State.sendCommand_port_clk (s : State) (p : Port) (c : Instr) (f : Frame) : ((s.sendCommand p c f).port p).clk = ⟨.output, .low⟩ := by
  simp [State.sendCommand, State.commandSent, s.shiftFrame_clk]
@[simp] theorem State.sendCommand_port_dout (s : State) (p : Port) (c : Instr) (f : Frame) : ((s.sendCommand p c f).port p).dout =
    ⟨.output, levelOf ((frameB3 f).getLsbD 0)⟩ := by
  simp [State.sendCommand, State.commandSent, s.shiftFrame_dout]
@[simp] theorem State.sendCommand_port_attached (s : State) (p : Port) (c : Instr) (f : Frame) : ((s.sendCommand p c f).port p).attached =
    ((s.shiftFrame p f).port p).attached := by
  simp [State.sendCommand, State.commandSent]
@[simp] theorem State.sendCommand_draws (s : State) (p : Port) (c : Instr) (f : Frame) : (s.sendCommand p c f).draws = s.draws + 32 := by
  simp [State.sendCommand, State.commandSent, s.shiftFrame_draws]
@[simp] theorem State.sendCommand_received (s : State) (p : Port) (c : Instr) (f : Frame) : (s.sendCommand p c f).received = s.frameIn p f := by
  rw [← s.shiftFrame_received p f]
  simp [State.sendCommand, State.commandSent, State.received]
@[simp] theorem State.sendCommand_wave (s : State) (p : Port) (c : Instr) (f : Frame) : (s.sendCommand p c f).wave =
    (frameWave p s.params.tHalfUs f (s.frameIn p f)).reverse ++ s.wave := by
  simp [State.sendCommand, State.commandSent, s.shiftFrame_wave]

/-! ### `strobe`: the RST strobe of ENTER_PROG_MODE (42_multiplexer.md R171) -/

@[simp] theorem strobe_focus (p : Port) (s : State) : (strobe p s).focus = s.focus := by simp [strobe]
@[simp] theorem strobe_busy (p : Port) (s : State) : (strobe p s).busy = s.busy := by simp [strobe]
@[simp] theorem strobe_result (p : Port) (s : State) : (strobe p s).result = s.result := by simp [strobe]
@[simp] theorem strobe_faults (p : Port) (s : State) : (strobe p s).faults = s.faults := by simp [strobe]
@[simp] theorem strobe_params (p : Port) (s : State) : (strobe p s).params = s.params := by simp [strobe]
@[simp] theorem strobe_requests (p : Port) (s : State) : (strobe p s).requests = s.requests := by simp [strobe]
@[simp] theorem strobe_resets (p : Port) (s : State) : (strobe p s).resets = s.resets := by simp [strobe]
@[simp] theorem strobe_free (p : Port) (s : State) : (strobe p s).free = s.free := by simp [strobe]
@[simp] theorem strobe_draws (p : Port) (s : State) : (strobe p s).draws = s.draws := by simp [strobe]
@[simp] theorem strobe_other (p : Port) (s : State) : (strobe p s).port p.other = s.port p.other := by simp [strobe]
@[simp] theorem strobe_port_clk (p : Port) (s : State) : ((strobe p s).port p).clk = (s.port p).clk := by simp [strobe]
@[simp] theorem strobe_port_dout (p : Port) (s : State) : ((strobe p s).port p).dout = (s.port p).dout := by simp [strobe]
@[simp] theorem strobe_port_din (p : Port) (s : State) : ((strobe p s).port p).din = (s.port p).din := by simp [strobe]
@[simp] theorem strobe_port_chip (p : Port) (s : State) : ((strobe p s).port p).chip = (s.port p).chip := by simp [strobe]
@[simp] theorem strobe_port_written (p : Port) (s : State) : ((strobe p s).port p).written = (s.port p).written := by simp [strobe]
@[simp] theorem strobe_port_settle (p : Port) (s : State) : ((strobe p s).port p).settle = (s.port p).settle := by simp [strobe]
@[simp] theorem strobe_port_rst (p : Port) (s : State) : ((strobe p s).port p).rst = ⟨.output, .low⟩ := by simp [strobe]
@[simp] theorem strobe_port_mode (p : Port) (s : State) : ((strobe p s).port p).mode = .resetActive := by simp [strobe]
@[simp] theorem strobe_port_framePhase (p : Port) (s : State) : ((strobe p s).port p).framePhase = 0 := by simp [strobe]
@[simp] theorem strobe_wave (p : Port) (s : State) : (strobe p s).wave = (strobeWave p s.params).reverse ++ s.wave := by simp [strobe, strobeWave]

/-! ### `enterBody`: ENTER_PROG_MODE without its result (42_multiplexer.md R171) -/

@[simp] theorem enterBody_focus (p : Port) (s : State) : (enterBody p s).focus = s.focus := by simp [enterBody]
@[simp] theorem enterBody_busy (p : Port) (s : State) : (enterBody p s).busy = s.busy := by simp [enterBody]
@[simp] theorem enterBody_result (p : Port) (s : State) : (enterBody p s).result = s.result := by simp [enterBody]
@[simp] theorem enterBody_faults (p : Port) (s : State) : (enterBody p s).faults = s.faults := by simp [enterBody]
@[simp] theorem enterBody_params (p : Port) (s : State) : (enterBody p s).params = s.params := by simp [enterBody]
@[simp] theorem enterBody_requests (p : Port) (s : State) : (enterBody p s).requests = s.requests := by simp [enterBody]
@[simp] theorem enterBody_resets (p : Port) (s : State) : (enterBody p s).resets = s.resets := by simp [enterBody]
@[simp] theorem enterBody_free (p : Port) (s : State) : (enterBody p s).free = s.free := by simp [enterBody]
@[simp] theorem enterBody_draws (p : Port) (s : State) : (enterBody p s).draws = s.draws + 32 := by simp [enterBody]
@[simp] theorem enterBody_other (p : Port) (s : State) : (enterBody p s).port p.other = s.port p.other := by simp [enterBody]
@[simp] theorem enterBody_port_din (p : Port) (s : State) : ((enterBody p s).port p).din = (s.port p).din := by simp [enterBody]
@[simp] theorem enterBody_port_chip (p : Port) (s : State) : ((enterBody p s).port p).chip = (s.port p).chip := by simp [enterBody]
@[simp] theorem enterBody_port_written (p : Port) (s : State) : ((enterBody p s).port p).written = (s.port p).written := by simp [enterBody]
@[simp] theorem enterBody_port_rst (p : Port) (s : State) : ((enterBody p s).port p).rst = ⟨.output, .low⟩ := by simp [enterBody]
@[simp] theorem enterBody_port_clk (p : Port) (s : State) : ((enterBody p s).port p).clk = ⟨.output, .low⟩ := by simp [enterBody]
@[simp] theorem enterBody_port_dout (p : Port) (s : State) : ((enterBody p s).port p).dout = ⟨.output, .low⟩ := by
  simp [enterBody, progEnFrame, levelOf]
@[simp] theorem enterBody_port_mode (p : Port) (s : State) : ((enterBody p s).port p).mode = .enableSent := by simp [enterBody]
@[simp] theorem enterBody_port_framePhase (p : Port) (s : State) : ((enterBody p s).port p).framePhase = 0 := by simp [enterBody]
@[simp] theorem enterBody_port_settle (p : Port) (s : State) : ((enterBody p s).port p).settle = 0 := by simp [enterBody, settleOf]

/-! ### `readSigBody`: one READ_SIG of IDENTIFY (43_identifier.md R190) -/

@[simp] theorem readSigBody_focus (b : Port) (n : Fin 3) (s : State) : (readSigBody b n s).focus = s.focus := by simp [readSigBody]
@[simp] theorem readSigBody_busy (b : Port) (n : Fin 3) (s : State) : (readSigBody b n s).busy = s.busy := by simp [readSigBody]
@[simp] theorem readSigBody_result (b : Port) (n : Fin 3) (s : State) : (readSigBody b n s).result = s.result := by simp [readSigBody]
@[simp] theorem readSigBody_faults (b : Port) (n : Fin 3) (s : State) : (readSigBody b n s).faults = s.faults := by simp [readSigBody]
@[simp] theorem readSigBody_params (b : Port) (n : Fin 3) (s : State) : (readSigBody b n s).params = s.params := by simp [readSigBody]
@[simp] theorem readSigBody_requests (b : Port) (n : Fin 3) (s : State) : (readSigBody b n s).requests = s.requests := by simp [readSigBody]
@[simp] theorem readSigBody_resets (b : Port) (n : Fin 3) (s : State) : (readSigBody b n s).resets = s.resets := by simp [readSigBody]
@[simp] theorem readSigBody_free (b : Port) (n : Fin 3) (s : State) : (readSigBody b n s).free = s.free := by simp [readSigBody]
@[simp] theorem readSigBody_draws (b : Port) (n : Fin 3) (s : State) : (readSigBody b n s).draws = s.draws + 32 := by simp [readSigBody]
@[simp] theorem readSigBody_other (b : Port) (n : Fin 3) (s : State) : (readSigBody b n s).port b.other = s.port b.other := by simp [readSigBody]
@[simp] theorem readSigBody_port_rst (b : Port) (n : Fin 3) (s : State) : ((readSigBody b n s).port b).rst = (s.port b).rst := by simp [readSigBody]
@[simp] theorem readSigBody_port_din (b : Port) (n : Fin 3) (s : State) : ((readSigBody b n s).port b).din = (s.port b).din := by simp [readSigBody]
@[simp] theorem readSigBody_port_chip (b : Port) (n : Fin 3) (s : State) : ((readSigBody b n s).port b).chip = (s.port b).chip := by simp [readSigBody]
@[simp] theorem readSigBody_port_written (b : Port) (n : Fin 3) (s : State) : ((readSigBody b n s).port b).written = (s.port b).written := by simp [readSigBody]
@[simp] theorem readSigBody_port_framePhase (b : Port) (n : Fin 3) (s : State) : ((readSigBody b n s).port b).framePhase = (s.port b).framePhase := by simp [readSigBody]
@[simp] theorem readSigBody_port_mode (b : Port) (n : Fin 3) (s : State) : ((readSigBody b n s).port b).mode = (s.port b).mode := by simp [readSigBody]
@[simp] theorem readSigBody_port_clk (b : Port) (n : Fin 3) (s : State) : ((readSigBody b n s).port b).clk = ⟨.output, .low⟩ := by simp [readSigBody]
@[simp] theorem readSigBody_port_dout (b : Port) (n : Fin 3) (s : State) : ((readSigBody b n s).port b).dout = ⟨.output, .low⟩ := by
  simp [readSigBody, readSigFrame, levelOf]
@[simp] theorem readSigBody_port_settle (b : Port) (n : Fin 3) (s : State) : ((readSigBody b n s).port b).settle = 0 := by simp [readSigBody, settleOf]

/-! ### `bindPort` and `focusBody`: FOCUS without its result (42_multiplexer.md R170) -/

@[simp] theorem bindPort_focus (b : Port) (s : State) : (bindPort b s).focus = some b := by simp [bindPort]
@[simp] theorem bindPort_busy (b : Port) (s : State) : (bindPort b s).busy = s.busy := by simp [bindPort]
@[simp] theorem bindPort_result (b : Port) (s : State) : (bindPort b s).result = s.result := by simp [bindPort]
@[simp] theorem bindPort_faults (b : Port) (s : State) : (bindPort b s).faults = s.faults := by simp [bindPort]
@[simp] theorem bindPort_params (b : Port) (s : State) : (bindPort b s).params = s.params := by simp [bindPort]
@[simp] theorem bindPort_requests (b : Port) (s : State) : (bindPort b s).requests = s.requests := by simp [bindPort]
@[simp] theorem bindPort_resets (b : Port) (s : State) : (bindPort b s).resets = s.resets := by simp [bindPort]
@[simp] theorem bindPort_free (b : Port) (s : State) : (bindPort b s).free = s.free := by simp [bindPort]
@[simp] theorem bindPort_draws (b : Port) (s : State) : (bindPort b s).draws = s.draws := by simp [bindPort]
@[simp] theorem bindPort_other (b : Port) (s : State) : (bindPort b s).port b.other = s.port b.other := by simp [bindPort]
@[simp] theorem bindPort_port_chip (b : Port) (s : State) : ((bindPort b s).port b).chip = (s.port b).chip := by simp [bindPort]
@[simp] theorem bindPort_port_written (b : Port) (s : State) : ((bindPort b s).port b).written = (s.port b).written := by simp [bindPort]
@[simp] theorem bindPort_port_settle (b : Port) (s : State) : ((bindPort b s).port b).settle = (s.port b).settle := by simp [bindPort]
@[simp] theorem bindPort_port_rst (b : Port) (s : State) : ((bindPort b s).port b).rst = ⟨.output, .high⟩ := by simp [bindPort]
@[simp] theorem bindPort_port_clk (b : Port) (s : State) : ((bindPort b s).port b).clk = ⟨.output, .low⟩ := by simp [bindPort]
@[simp] theorem bindPort_port_dout (b : Port) (s : State) : ((bindPort b s).port b).dout = ⟨.output, .unspecified⟩ := by simp [bindPort]
@[simp] theorem bindPort_port_din (b : Port) (s : State) : ((bindPort b s).port b).din = ⟨.input, (s.port b).din.lvl⟩ := by simp [bindPort]
@[simp] theorem bindPort_port_mode (b : Port) (s : State) : ((bindPort b s).port b).mode = .idle := by simp [bindPort]
@[simp] theorem bindPort_port_framePhase (b : Port) (s : State) : ((bindPort b s).port b).framePhase = 0 := by simp [bindPort]
@[simp] theorem bindPort_wave (b : Port) (s : State) : (bindPort b s).wave = (bindWave b).reverse ++ s.wave := by simp [bindPort, bindWave]
@[simp] theorem releasePort_focus (q : Port) (s : State) : (releasePort q s).focus = s.focus := by simp [releasePort]
@[simp] theorem releasePort_busy (q : Port) (s : State) : (releasePort q s).busy = s.busy := by simp [releasePort]
@[simp] theorem releasePort_result (q : Port) (s : State) : (releasePort q s).result = s.result := by simp [releasePort]
@[simp] theorem releasePort_faults (q : Port) (s : State) : (releasePort q s).faults = s.faults := by simp [releasePort]
@[simp] theorem releasePort_params (q : Port) (s : State) : (releasePort q s).params = s.params := by simp [releasePort]
@[simp] theorem releasePort_requests (q : Port) (s : State) : (releasePort q s).requests = s.requests := by simp [releasePort]
@[simp] theorem releasePort_resets (q : Port) (s : State) : (releasePort q s).resets = s.resets := by simp [releasePort]
@[simp] theorem releasePort_free (q : Port) (s : State) : (releasePort q s).free = s.free := by simp [releasePort]
@[simp] theorem releasePort_draws (q : Port) (s : State) : (releasePort q s).draws = s.draws := by simp [releasePort]
@[simp] theorem releasePort_other (q : Port) (s : State) : (releasePort q s).port q.other = s.port q.other := by simp [releasePort]
@[simp] theorem releasePort_of_other (q : Port) (s : State) : (releasePort q.other s).port q = s.port q := by simp [releasePort]
@[simp] theorem releasePort_port_chip (q : Port) (s : State) : ((releasePort q s).port q).chip = (s.port q).chip := by simp [releasePort]
@[simp] theorem releasePort_port_written (q : Port) (s : State) : ((releasePort q s).port q).written = (s.port q).written := by simp [releasePort]
@[simp] theorem releasePort_port_settle (q : Port) (s : State) : ((releasePort q s).port q).settle = (s.port q).settle := by simp [releasePort]
@[simp] theorem releasePort_port_mode (q : Port) (s : State) : ((releasePort q s).port q).mode = (s.port q).mode := by simp [releasePort]
@[simp] theorem releasePort_port_framePhase (q : Port) (s : State) : ((releasePort q s).port q).framePhase = (s.port q).framePhase := by simp [releasePort]
@[simp] theorem releasePort_port_attached (q : Port) (s : State) : ((releasePort q s).port q).attached = (s.port q).attached := by simp [releasePort]
@[simp] theorem releasePort_port_din (q : Port) (s : State) : ((releasePort q s).port q).din = (s.port q).din := by simp [releasePort]
@[simp] theorem releasePort_port_rst (q : Port) (s : State) : ((releasePort q s).port q).rst = ⟨.input, (s.port q).rst.lvl⟩ := by simp [releasePort]
@[simp] theorem releasePort_port_clk (q : Port) (s : State) : ((releasePort q s).port q).clk = ⟨.input, (s.port q).clk.lvl⟩ := by simp [releasePort]
@[simp] theorem releasePort_port_dout (q : Port) (s : State) : ((releasePort q s).port q).dout = ⟨.input, (s.port q).dout.lvl⟩ := by simp [releasePort]
@[simp] theorem releasePort_wave (q : Port) (s : State) : (releasePort q s).wave = (releaseWave q).reverse ++ s.wave := by simp [releasePort, releaseWave]

/-- FOCUS b releases no port, or it releases the other one, which is then the one focused before, under RELEASE. -/
theorem releasedBy_cases (b : Port) (s : State) :
    (releasedBy b s = none ∧ (s.focus = none ∨ s.focus = some b ∨ s.params.unfocusedLines = .hold)) ∨
      (releasedBy b s = some b.other ∧ s.focus = some b.other ∧ s.params.unfocusedLines = .release) := by
  rw [releasedBy]
  cases hf : s.focus with
  | none => exact .inl ⟨rfl, .inl rfl⟩
  | some old =>
    cases hu : s.params.unfocusedLines with
    | hold => exact .inl ⟨rfl, .inr (.inr rfl)⟩
    | release =>
      by_cases h : old = b
      · exact .inl ⟨if_pos h, .inr (.inl (by rw [h]))⟩
      · rw [eq_other_of_ne _ _ h]
        exact .inr ⟨if_neg (other_ne b), rfl, rfl⟩

theorem focusBody_cases (b : Port) (s : State) :
    (focusBody b s = bindPort b s ∧ (s.focus = none ∨ s.focus = some b ∨ s.params.unfocusedLines = .hold)) ∨
      (focusBody b s = bindPort b (releasePort b.other s) ∧ s.focus = some b.other ∧
        s.params.unfocusedLines = .release) := by
  rcases releasedBy_cases b s with ⟨h, k⟩ | ⟨h, k⟩
  · exact .inl ⟨by rw [focusBody, h], k⟩
  · exact .inr ⟨by rw [focusBody, h], k⟩

@[simp] theorem focusBody_focus (b : Port) (s : State) : (focusBody b s).focus = some b := by
  rcases focusBody_cases b s with ⟨h, -⟩ | ⟨h, -⟩ <;> simp [h]
@[simp] theorem focusBody_busy (b : Port) (s : State) : (focusBody b s).busy = s.busy := by
  rcases focusBody_cases b s with ⟨h, -⟩ | ⟨h, -⟩ <;> simp [h]
@[simp] theorem focusBody_result (b : Port) (s : State) : (focusBody b s).result = s.result := by
  rcases focusBody_cases b s with ⟨h, -⟩ | ⟨h, -⟩ <;> simp [h]
@[simp] theorem focusBody_faults (b : Port) (s : State) : (focusBody b s).faults = s.faults := by
  rcases focusBody_cases b s with ⟨h, -⟩ | ⟨h, -⟩ <;> simp [h]
@[simp] theorem focusBody_params (b : Port) (s : State) : (focusBody b s).params = s.params := by
  rcases focusBody_cases b s with ⟨h, -⟩ | ⟨h, -⟩ <;> simp [h]
@[simp] theorem focusBody_requests (b : Port) (s : State) : (focusBody b s).requests = s.requests := by
  rcases focusBody_cases b s with ⟨h, -⟩ | ⟨h, -⟩ <;> simp [h]
@[simp] theorem focusBody_resets (b : Port) (s : State) : (focusBody b s).resets = s.resets := by
  rcases focusBody_cases b s with ⟨h, -⟩ | ⟨h, -⟩ <;> simp [h]
@[simp] theorem focusBody_free (b : Port) (s : State) : (focusBody b s).free = s.free := by
  rcases focusBody_cases b s with ⟨h, -⟩ | ⟨h, -⟩ <;> simp [h]
@[simp] theorem focusBody_draws (b : Port) (s : State) : (focusBody b s).draws = s.draws := by
  rcases focusBody_cases b s with ⟨h, -⟩ | ⟨h, -⟩ <;> simp [h]
@[simp] theorem focusBody_port_chip (b : Port) (s : State) : ((focusBody b s).port b).chip = (s.port b).chip := by
  rcases focusBody_cases b s with ⟨h, -⟩ | ⟨h, -⟩ <;> simp [h]
@[simp] theorem focusBody_port_written (b : Port) (s : State) : ((focusBody b s).port b).written = (s.port b).written := by
  rcases focusBody_cases b s with ⟨h, -⟩ | ⟨h, -⟩ <;> simp [h]
@[simp] theorem focusBody_port_settle (b : Port) (s : State) : ((focusBody b s).port b).settle = (s.port b).settle := by
  rcases focusBody_cases b s with ⟨h, -⟩ | ⟨h, -⟩ <;> simp [h]
@[simp] theorem focusBody_port_rst (b : Port) (s : State) : ((focusBody b s).port b).rst = ⟨.output, .high⟩ := by
  rcases focusBody_cases b s with ⟨h, -⟩ | ⟨h, -⟩ <;> simp [h]
@[simp] theorem focusBody_port_clk (b : Port) (s : State) : ((focusBody b s).port b).clk = ⟨.output, .low⟩ := by
  rcases focusBody_cases b s with ⟨h, -⟩ | ⟨h, -⟩ <;> simp [h]
@[simp] theorem focusBody_port_dout (b : Port) (s : State) : ((focusBody b s).port b).dout = ⟨.output, .unspecified⟩ := by
  rcases focusBody_cases b s with ⟨h, -⟩ | ⟨h, -⟩ <;> simp [h]
@[simp] theorem focusBody_port_din (b : Port) (s : State) : ((focusBody b s).port b).din = ⟨.input, (s.port b).din.lvl⟩ := by
  rcases focusBody_cases b s with ⟨h, -⟩ | ⟨h, -⟩ <;> simp [h]
@[simp] theorem focusBody_port_mode (b : Port) (s : State) : ((focusBody b s).port b).mode = .idle := by
  rcases focusBody_cases b s with ⟨h, -⟩ | ⟨h, -⟩ <;> simp [h]
@[simp] theorem focusBody_port_framePhase (b : Port) (s : State) : ((focusBody b s).port b).framePhase = 0 := by
  rcases focusBody_cases b s with ⟨h, -⟩ | ⟨h, -⟩ <;> simp [h]
@[simp] theorem focusBody_other_chip (b : Port) (s : State) : ((focusBody b s).port b.other).chip = (s.port b.other).chip := by
  rcases focusBody_cases b s with ⟨h, -⟩ | ⟨h, -⟩ <;> simp [h]
@[simp] theorem focusBody_other_written (b : Port) (s : State) : ((focusBody b s).port b.other).written = (s.port b.other).written := by
  rcases focusBody_cases b s with ⟨h, -⟩ | ⟨h, -⟩ <;> simp [h]
@[simp] theorem focusBody_other_settle (b : Port) (s : State) : ((focusBody b s).port b.other).settle = (s.port b.other).settle := by
  rcases focusBody_cases b s with ⟨h, -⟩ | ⟨h, -⟩ <;> simp [h]
@[simp] theorem focusBody_other_mode (b : Port) (s : State) : ((focusBody b s).port b.other).mode = (s.port b.other).mode := by
  rcases focusBody_cases b s with ⟨h, -⟩ | ⟨h, -⟩ <;> simp [h]
@[simp] theorem focusBody_other_framePhase (b : Port) (s : State) : ((focusBody b s).port b.other).framePhase = (s.port b.other).framePhase := by
  rcases focusBody_cases b s with ⟨h, -⟩ | ⟨h, -⟩ <;> simp [h]
@[simp] theorem focusBody_other_attached (b : Port) (s : State) : ((focusBody b s).port b.other).attached = (s.port b.other).attached := by
  rcases focusBody_cases b s with ⟨h, -⟩ | ⟨h, -⟩ <;> simp [h]
@[simp] theorem focusBody_other_din (b : Port) (s : State) : ((focusBody b s).port b.other).din = (s.port b.other).din := by
  rcases focusBody_cases b s with ⟨h, -⟩ | ⟨h, -⟩ <;> simp [h]

/-- Under HOLD, or where the other port was not focused, FOCUS leaves it alone. -/
theorem focusBody_other_held (b : Port) (s : State) (h : s.focus ≠ some b.other ∨ s.params.unfocusedLines = .hold) :
    (focusBody b s).port b.other = s.port b.other := by
  rcases focusBody_cases b s with ⟨hb, -⟩ | ⟨-, hf, hu⟩
  · simp [hb]
  · rcases h with h | h
    · exact absurd hf h
    · rw [hu] at h; cases h

/-- Under RELEASE, FOCUS turns the three driven lines of the port focused before into inputs (10_state.md R26). -/
theorem focusBody_other_released (b : Port) (s : State) (h : s.focus = some b.other)
    (hu : s.params.unfocusedLines = .release) :
    ((focusBody b s).port b.other).rst = ⟨.input, (s.port b.other).rst.lvl⟩ ∧
      ((focusBody b s).port b.other).clk = ⟨.input, (s.port b.other).clk.lvl⟩ ∧
        ((focusBody b s).port b.other).dout = ⟨.input, (s.port b.other).dout.lvl⟩ := by
  rcases focusBody_cases b s with ⟨-, hn | hn | hn⟩ | ⟨hb, -, -⟩
  · rw [h] at hn; cases hn
  · rw [h] at hn; exact absurd (Option.some.inj hn) (other_ne b)
  · rw [hu] at hn; cases hn
  · simp [hb]

theorem focusBody_wave (b : Port) (s : State) :
    (focusBody b s).wave = (focusWave b s.focus s.params).reverse ++ s.wave := by
  rcases focusBody_cases b s with ⟨hb, hn | hn | hn⟩ | ⟨hb, hf, hu⟩
  · simp [hb, focusWave, hn]
  · simp [hb, focusWave, hn]
  · cases hf : s.focus <;> simp [hb, focusWave, hn]
  · simp [hb, focusWave, hf, hu]

end Sys2Proof.Machine
end

