-- ==== Sys2Proof/Laws/Chip.lean ====
section
/-! SUPPORT. What the block receives from the reference target (95_test_vectors.md TM1 to TM7), byte by byte and frame by
frame, and what the target makes of a strobe and of whole frames. -/

namespace Sys2Proof.Machine

/-! ### One byte -/

/-- The target stands between two bytes and listens. -/
structure Target.Rested (t : Target) : Prop where
  listens : t.mode ≠ .off
  bit : t.bit = 0
  rx : t.rx = 0
  latch : t.latch = false

/-- The target once `k + 1` bits of `out` were clocked in and before CLK falls. -/
def Target.during (t : Target) (out : Byte) (k : Fin 8) : Target :=
  { t with bit := k, rx := out >>> (8 - k.val), latch := out.getLsbD (7 - k.val) }

theorem shift_in_bit : ∀ (out : Byte) (k : Fin 8),
    shiftIn (out >>> (8 - k.val)) (out.getLsbD (7 - k.val)) = out >>> (7 - k.val) := by
  decide +kernel

theorem Target.during_clkFall (erased : Byte) (t : Target) (out : Byte) (k : Fin 8) (hk : k.val < 7)
    (ht : t.mode ≠ .off) :
    (t.during out k).clkFall erased = { t with bit := k + 1, rx := out >>> (7 - k.val), latch := out.getLsbD (7 - k.val) } := by
  have h7 : k ≠ 7 := by rintro rfl; exact absurd hk (by decide)
  simp only [Target.clkFall, Target.during, ht, if_false, h7, shift_in_bit]

theorem Target.during_last (erased : Byte) (t : Target) (out : Byte) (ht : t.Rested) :
    (t.during out 7).clkFall erased = t.byteDone erased out := by
  have hs : shiftIn (out >>> 1) (out.getLsbD 0) = out := (shift_in_bit out 7).trans (BitVec.ushiftRight_zero out)
  have ht' : ({ t with bit := 0, rx := 0, latch := false } : Target) = t := by
    cases t; cases ht; simp_all
  rw [Target.clkFall, if_neg (show (t.during out 7).mode ≠ .off from ht.listens),
    if_pos (show (t.during out 7).bit = 7 from rfl)]
  show ({ t with bit := 0, rx := 0, latch := false } : Target).byteDone erased (shiftIn (out >>> 1) (out.getLsbD 0)) = _
  rw [hs, ht']

theorem State.byteIn_chip (s : State) (p : Port) (out : Byte) (t : Target) (ht : t.Rested)
    (hc : (s.port p).clk ≠ ⟨.output, .high⟩) (h : (s.port p).attached = .chip t) :
    (∀ v, t.tx = some v → s.byteIn p out = v) ∧ ((s.shift8 p out).port p).attached = .chip (t.byteDone s.params.erasedByte out) := by
  have h0 : (∀ v, t.tx = some v → s.sampleOf p out 0 = v.getLsbD 7) ∧
      ((s.afterBits p out 1).port p).attached = .chip (t.during out 0) := by
    have hb := State.bitIn_chip (s.afterBits p out 0) p (Fin.ofNat 8 (7 - 0)) t (by simpa [State.afterBits] using h)
    rw [s.afterBits_srOut] at hb
    have hs : t.settleClk (s.afterBits p out 0).params.erasedByte ((s.afterBits p out 0).port p).clk = t := by
      simp [Target.settleClk, State.afterBits, hc]
    rw [hs] at hb
    refine ⟨fun v hv => hb.1.trans ?_, hb.2.trans ?_⟩
    · simp [Target.dinLevel, ht.listens, ht.bit, hv]
    · have hr : out >>> 8 = 0 := (by decide +kernel : ∀ v : Byte, v >>> 8 = 0) out
      simp only [Target.clkRise, ht.listens, if_false, Target.during]
      cases t
      have hb0 := ht.bit
      have hr0 := ht.rx
      simp_all
  have hn : ∀ k : Fin 8, (hk : k.val < 7) →
      ((s.afterBits p out (k.val + 1)).port p).attached = .chip (t.during out k) →
        (∀ v, t.tx = some v → s.sampleOf p out (k.val + 1) = v.getLsbD (7 - (k.val + 1))) ∧
          ((s.afterBits p out (k.val + 2)).port p).attached = .chip (t.during out (k + 1)) := by
    intro k hk ha
    have hb := State.bitIn_chip (s.afterBits p out (k.val + 1)) p (Fin.ofNat 8 (7 - (k.val + 1))) _ ha
    have hclk : ((s.afterBits p out (k.val + 1)).port p).clk = ⟨.output, .high⟩ := State.shiftBit_clk _ p _
    rw [s.afterBits_srOut, hclk, Target.settleClk, if_pos rfl, Target.during_clkFall _ _ _ _ hk ht.listens] at hb
    have hk1 : (k + 1).val = k.val + 1 := by
      rw [Fin.val_add_one_of_lt]
      exact Fin.lt_def.mpr (by simpa using hk)
    refine ⟨fun v hv => hb.1.trans ?_, hb.2.trans ?_⟩
    · simp only [Target.dinLevel, ht.listens, hk1, hv, if_false]
    · have hi : (6 - k.val) % 8 = 6 - k.val := Nat.mod_eq_of_lt (by omega)
      simp [Target.clkRise, ht.listens, Target.during, hk1, hi, show 8 - (k.val + 1) = 7 - k.val by omega]
  obtain ⟨b0, a1⟩ := h0
  obtain ⟨b1, a2⟩ := hn 0 (by decide) a1
  obtain ⟨b2, a3⟩ := hn 1 (by decide) a2
  obtain ⟨b3, a4⟩ := hn 2 (by decide) a3
  obtain ⟨b4, a5⟩ := hn 3 (by decide) a4
  obtain ⟨b5, a6⟩ := hn 4 (by decide) a5
  obtain ⟨b6, a7⟩ := hn 5 (by decide) a6
  obtain ⟨b7, a8⟩ := hn 6 (by decide) a7
  constructor
  · intro v hv
    apply wireBits_injective
    rw [s.wireBits_byteIn, wireBits_eq]
    simp only [List.cons.injEq, and_true]
    exact ⟨b0 v hv, b1 v hv, b2 v hv, b3 v hv, b4 v hv, b5 v hv, b6 v hv, b7 v hv⟩
  · rw [s.shift8_attached, show ((s.afterBits p out 8).port p).attached = .chip (t.during out 7) from a8]
    simp [Attached.sees, Target.sees, Target.during_last _ _ _ ht]

/-! ### One frame -/

theorem Target.frameDone_parts (erased : Byte) (t : Target) (b : Byte) : (t.mode ≠ .off → (t.frameDone erased b).mode ≠ .off) ∧
    (t.frameDone erased b).bit = t.bit ∧ (t.frameDone erased b).rx = t.rx ∧ (t.frameDone erased b).latch = t.latch := by
  have hact : ∀ c, (t.act erased c).mode = t.mode ∧ (t.act erased c).bit = t.bit ∧ (t.act erased c).rx = t.rx ∧
      (t.act erased c).latch = t.latch := by
    intro c
    cases c <;> exact ⟨rfl, rfl, rfl, rfl⟩
  rw [Target.frameDone]
  split
  · split
    · exact ⟨fun _ => by simp, rfl, rfl, rfl⟩
    · exact ⟨id, rfl, rfl, rfl⟩
  · exact ⟨fun h => (hact _).1 ▸ h, (hact _).2⟩
  · exact ⟨id, rfl, rfl, rfl⟩

theorem Target.byteDone_rested (erased : Byte) (t : Target) (b : Byte) (h : t.Rested) : (t.byteDone erased b).Rested := by
  obtain ⟨h1, h2, h3, h4⟩ := h
  rw [Target.byteDone]
  split
  · exact ⟨h1, h2, h3, h4⟩
  · exact ⟨h1, h2, h3, h4⟩
  · exact ⟨h1, h2, h3, h4⟩
  · obtain ⟨k1, k2, k3, k4⟩ := t.frameDone_parts erased b
    exact ⟨k1 h1, k2.trans h2, k3.trans h3, k4.trans h4⟩

/-- The target once the first `k` bytes of a frame have arrived. -/
def Target.afterBytes (erased : Byte) (t : Target) (f : Frame) : Nat → Target
  | 0 => t
  | k + 1 => (t.afterBytes erased f k).byteDone erased (regAt (regsOfFrame f) (Fin.ofNat 4 k))

/-- The target once a whole frame has arrived. -/
def Target.afterFrame (erased : Byte) (t : Target) (f : Frame) : Target := t.afterBytes erased f 4

theorem Target.afterBytes_rested (erased : Byte) (t : Target) (f : Frame) (h : t.Rested) :
    ∀ k, (t.afterBytes erased f k).Rested
  | 0 => h
  | k + 1 => Target.byteDone_rested _ _ _ (t.afterBytes_rested erased f h k)

theorem State.frameIn_chip (s : State) (p : Port) (f : Frame) (t : Target) (ht : t.Rested)
    (hc : (s.port p).clk ≠ ⟨.output, .high⟩) (h : (s.port p).attached = .chip t) :
    (∀ k : Fin 4, ∀ v, (t.afterBytes s.params.erasedByte f k.val).tx = some v → s.answerOf p f k.val = v) ∧
      ((s.shiftFrame p f).port p).attached = .chip (t.afterFrame s.params.erasedByte f) := by
  have step : ∀ k, ((s.afterBytes p f k).port p).attached = .chip (t.afterBytes s.params.erasedByte f k) →
      ((s.afterBytes p f k).port p).clk ≠ ⟨.output, .high⟩ →
        (∀ v, (t.afterBytes s.params.erasedByte f k).tx = some v → s.answerOf p f k = v) ∧
          ((s.afterBytes p f (k + 1)).port p).attached = .chip (t.afterBytes s.params.erasedByte f (k + 1)) ∧
            ((s.afterBytes p f (k + 1)).port p).clk ≠ ⟨.output, .high⟩ := by
    intro k ha hk
    have hb := State.byteIn_chip
      ((s.afterBytes p f k).setScratch { (s.afterBytes p f k).scratch with byteIdx := Fin.ofNat 4 k }) p
      (regAt (regsOfFrame f) (Fin.ofNat 4 k)) _ (t.afterBytes_rested s.params.erasedByte f ht k) (by simpa using hk)
      (by simpa using ha)
    refine ⟨hb.1, ?_, ?_⟩
    · rw [s.afterBytes_attached, hb.2, State.setScratch_params, (s.afterBytes_kept p f k).params]
      rfl
    · rw [State.afterBytes, State.shiftByte_clk]
      decide
  obtain ⟨a0, h1, c1⟩ := step 0 (by simpa [State.afterBytes, Target.afterBytes] using h) (by simpa [State.afterBytes] using hc)
  obtain ⟨a1, h2, c2⟩ := step 1 h1 c1
  obtain ⟨a2, h3, c3⟩ := step 2 h2 c2
  obtain ⟨a3, h4, -⟩ := step 3 h3 c3
  refine ⟨fun k => ?_, by rw [s.shiftFrame_eq]; exact h4⟩
  fin_cases k
  exacts [a0, a1, a2, a3]

/-- The target with the first three bytes of a frame. -/
def Target.holding (t : Target) (f : Frame) : Target := { t with b0 := frameB0 f, b1 := frameB1 f, b2 := frameB2 f }

theorem Target.holding_data (t : Target) (f : Frame) (c : Instr) : (t.holding f).data c = t.data c := by cases c <;> rfl

/-- "It answers R0 = 0x00, R1 = B0, R2 = B1, and R3 = B2 unless the frame is a read in PROG" (TM3), and what the frame does
is done. -/
theorem Target.afterFrame_aligned (erased : Byte) (t : Target) (f : Frame) (hc : t.cnt = 0) :
    (t.afterBytes erased f 1).tx = some (frameB0 f) ∧ (t.afterBytes erased f 2).tx = some (frameB1 f) ∧
      (t.afterBytes erased f 3).tx = (t.holding f).answer3 ∧
        t.afterFrame erased f = { ({ t.holding f with cnt := 3, tx := (t.holding f).answer3 } : Target).frameDone erased
          (frameB3 f) with cnt := 0, tx := some 0 } := by
  have h1 : t.afterBytes erased f 1 = { t with b0 := frameB0 f, cnt := 1, tx := some (frameB0 f) } := by
    show t.byteDone erased (frameB0 f) = _
    rw [Target.byteDone, hc]
  have h2 : t.afterBytes erased f 2 = { t with b0 := frameB0 f, b1 := frameB1 f, cnt := 2, tx := some (frameB1 f) } := by
    show (t.afterBytes erased f 1).byteDone erased (frameB1 f) = _
    rw [h1]
    rfl
  have h3 : t.afterBytes erased f 3 = { t.holding f with cnt := 3, tx := (t.holding f).answer3 } := by
    show (t.afterBytes erased f 2).byteDone erased (frameB2 f) = _
    rw [h2]
    rfl
  refine ⟨by rw [h1], by rw [h2], by rw [h3], ?_⟩
  show (t.afterBytes erased f 3).byteDone erased (frameB3 f) = _
  rw [h3]
  rfl

/-! ### The strobe and the focus -/

/-- The RST strobe puts the target in SYNC, at the start of a frame (TM2). -/
theorem strobe_chip (p : Port) (s : State) (t : Target) (h : (s.port p).attached = .chip t) :
    ((strobe p s).port p).attached = .chip t.enterSync := by
  simp only [strobe, State.port_setPort_self, State.setPhase_port, State.delayUs_port, State.drive_port_attached, h,
    Attached.sees, Target.sees, PortState.line, State.drive_rst_port_rst, if_true]
  split <;> rfl

theorem Target.enterSync_rested (t : Target) : t.enterSync.Rested ∧ t.enterSync.cnt = 0 :=
  ⟨⟨by simp [Target.enterSync], rfl, rfl, rfl⟩, rfl⟩

/-- FOCUS takes a reference target out of programming mode (TM2, 42_multiplexer.md R174). -/
theorem focusBody_chip (b : Port) (s : State) (t : Target) (h : (s.port b).attached = .chip t) :
    ((focusBody b s).port b).attached =
      .chip { t.settleClk s.params.erasedByte (s.port b).clk with mode := .off } := by
  have hbind : ∀ u : State, (u.port b).attached = .chip t → (u.port b).clk = (s.port b).clk → u.params = s.params →
      ((bindPort b u).port b).attached =
        .chip { t.settleClk s.params.erasedByte (s.port b).clk with mode := .off } := by
    intro u hu hk hp
    simp only [bindPort, State.port_setPort_self, State.drive_port_attached, State.release_port_attached,
      State.setFocus_port, hu, PortState.line, State.release_params, State.setFocus_params,
      State.release_din_port_clk, hk, hp, Attached.sees, Target.sees, Target.settleClk]
  rcases focusBody_cases b s with ⟨hb, -⟩ | ⟨hb, -⟩
  · rw [hb]; exact hbind s h rfl rfl
  · rw [hb]
    refine hbind _ ?_ ?_ ?_ <;> simp [releasePort, h]

/-- FOCUS leaves what is attached as it is, unless it is a reference target. -/
theorem focusBody_env (b : Port) (s : State) (h : ∀ t, (s.port b).attached ≠ .chip t) :
    ((focusBody b s).port b).attached = (s.port b).attached := by
  have hbind : ∀ u : State, (u.port b).attached = (s.port b).attached →
      ((bindPort b u).port b).attached = (s.port b).attached := by
    intro u hu
    simp only [bindPort, State.port_setPort_self, State.drive_port_attached, State.release_port_attached,
      State.setFocus_port, hu]
    cases ha : (s.port b).attached with
    | env l => rfl
    | stuck v => rfl
    | loop => rfl
    | chip t => exact absurd ha (h t)
  rcases focusBody_cases b s with ⟨hb, -⟩ | ⟨hb, -⟩
  · rw [hb]; exact hbind s rfl
  · rw [hb]
    refine hbind _ ?_
    simp [releasePort]

/-- The strobe leaves what is attached as it is, unless it is a reference target. -/
theorem strobe_env (p : Port) (s : State) (h : ∀ t, (s.port p).attached ≠ .chip t) :
    ((strobe p s).port p).attached = (s.port p).attached := by
  simp only [strobe, State.port_setPort_self, State.setPhase_port, State.delayUs_port, State.drive_port_attached]
  cases ha : (s.port p).attached with
  | env l => rfl
  | stuck v => rfl
  | loop => rfl
  | chip t => exact absurd ha (h t)

end Sys2Proof.Machine
end

