-- ==== Sys2Proof/Laws/Faults.lean ====
section
/-! SUPPORT. The set FAULTS and the order of the checks: membership, the form, and when each operation's checks pass. -/

namespace Sys2Proof.Machine

/-! ### FAULTS -/

theorem FaultCode.number_injective {a b : FaultCode} (h : a.number = b.number) : a = b := by
  cases a <;> cases b <;> first | rfl | exact absurd h (by decide)

/-- Adding a code adds that code and no other. -/
theorem mem_addFault (c d : FaultCode) (l : List FaultCode) : d ∈ addFault c l ↔ d = c ∨ d ∈ l := by
  induction l with
  | nil => simp [addFault]
  | cons e l ih =>
    rw [addFault]
    split
    · simp
    · split
      · rename_i he
        subst he
        simp
      · simp only [List.mem_cons, ih]
        tauto

/-- Adding a code keeps the form. -/
theorem faultsWf_addFault (c : FaultCode) (l : List FaultCode) (h : faultsWf l) : faultsWf (addFault c l) := by
  induction l with
  | nil => exact List.pairwise_singleton _ _
  | cons e l ih =>
    obtain ⟨he, hl⟩ := List.pairwise_cons.mp h
    rw [addFault]
    split
    · rename_i hce
      refine List.pairwise_cons.mpr ⟨fun d hd => ?_, h⟩
      rcases List.mem_cons.mp hd with rfl | hd
      · exact hce
      · exact Nat.lt_trans hce (he d hd)
    · split
      · exact h
      · rename_i h1 h2
        refine List.pairwise_cons.mpr ⟨fun d hd => ?_, ih hl⟩
        rcases (mem_addFault c d l).mp hd with rfl | hd
        · have : d.number ≠ e.number := fun k => h2 (FaultCode.number_injective k)
          omega
        · exact he d hd

/-! ### The order of the checks -/

theorem firstFault_nil : firstFault [] = none := rfl

theorem firstFault_cons (b : Bool) (c : FaultCode) (l : List (Bool × FaultCode)) :
    firstFault ((b, c) :: l) = if b then some c else firstFault l := rfl

theorem settleFault_eq (s : State) : settleFault s = if s.settleOwed then some .settle else none := rfl

theorem exchangeFault_eq (s : State) : exchangeFault s =
    if s.focus.isNone then some .noFocus else if s.settleOwed then some .settle else none := rfl

theorem enterFault_eq (s : State) : enterFault s =
    if s.focus.isNone then some .noFocus else if s.settleOwed then some .settle else none := rfl

theorem paramsFault_eq (b : Port) (s : State) : paramsFault b s =
    if (s.port b).written then none else some .unidentified := by
  rw [paramsFault, firstFault_cons, firstFault_nil]
  cases (s.port b).written <;> rfl

theorem transactFault_eq (f : Frame) (s : State) (p : Port) (hp : s.focus = some p) : transactFault f s =
    if s.settleOwed then some .settle
    else if (s.port p).framePhase ≠ 0 then some .misaligned
    else match decodeFrame f with
      | .error _ => some .unlisted
      | .ok c => if modeOk c (s.port p).mode then none else some .notEnabled := by
  have hm : s.misaligned = decide ((s.port p).framePhase ≠ 0) := by rw [State.misaligned, hp]
  have hn : ∀ c, s.notEnabled c = !modeOk c (s.port p).mode := fun c => by rw [State.notEnabled, hp]
  simp only [transactFault, hp, Option.isNone_some, firstFault, hm, hn]
  cases s.settleOwed
  · by_cases hz : (s.port p).framePhase = 0
    · simp only [hz, ne_eq, not_true, decide_false, Bool.false_eq_true, if_false]
      cases decodeFrame f with
      | error e => rfl
      | ok c => cases h : modeOk c (s.port p).mode <;> simp [h]
    · simp [hz]
  · simp

theorem transactFault_none (f : Frame) (s : State) (hp : s.focus = none) : transactFault f s = some .noFocus := by
  simp [transactFault, hp, firstFault]

end Sys2Proof.Machine
end

