-- ==== Sys2Proof/Laws/Exec.lean ====
section
/-! SUPPORT. What each instruction can do, said once: it raises one fault, or it runs in full. No later proof unfolds a
meaning. -/

namespace Sys2Proof.Machine

/-! ### When an operation runs -/

theorem execExchange_run (out : Byte) (s : State) (p : Port) (hp : s.focus = some p) (hs : ∀ q, (s.port q).settle = 0) :
    execExchange out s = .next (exchangeRun p out s) := by
  have h := s.settleOwed_eq_false_iff.mpr hs
  simp [execExchange, exchangeFault_eq, hp, h]

theorem execFocus_run (b : Port) (s : State) (hs : ∀ q, (s.port q).settle = 0) : execFocus b s = .next (focusRun b s) := by
  have h := s.settleOwed_eq_false_iff.mpr hs
  simp [execFocus, settleFault_eq, h]

theorem execEnter_run (s : State) (p : Port) (hp : s.focus = some p) (hs : ∀ q, (s.port q).settle = 0) :
    execEnterProgMode s = .next (enterRun p s) := by
  have h := s.settleOwed_eq_false_iff.mpr hs
  simp [execEnterProgMode, enterFault_eq, hp, h]

theorem execIdentify_run (b : Port) (s : State) (hs : ∀ q, (s.port q).settle = 0) :
    execIdentify b s = .next (identifyRun b s) := by
  have h := s.settleOwed_eq_false_iff.mpr hs
  simp [execIdentify, settleFault_eq, h]

theorem execReadParams_run (b : Port) (s : State) (h : (s.port b).written = true) :
    execReadParams b s = .next (paramsRun b s) := by
  simp [execReadParams, paramsFault_eq, h]

theorem transactFrame_run (f : Frame) (s : State) (p : Port) (c : Instr) (hp : s.focus = some p)
    (hs : ∀ q, (s.port q).settle = 0) (hf : (s.port p).framePhase = 0) (hc : decodeFrame f = .ok c)
    (hm : modeOk c (s.port p).mode = true) : transactFrame f s = .next (transactRun p c f s) := by
  have h := s.settleOwed_eq_false_iff.mpr hs
  simp [transactFrame, transactFault_eq f s p hp, hp, h, hf, hc, hm]

/-! ### What an operation can do -/

theorem execExchange_cases (out : Byte) (s : State) :
    (∃ c, exchangeFault s = some c ∧ execExchange out s = .next (s.raise c)) ∨
      (∃ p, s.focus = some p ∧ (∀ q, (s.port q).settle = 0) ∧ execExchange out s = .next (exchangeRun p out s)) := by
  cases hp : s.focus with
  | none => exact .inl ⟨.noFocus, by simp [exchangeFault_eq, hp], by simp [execExchange, exchangeFault_eq, hp]⟩
  | some p =>
    cases h : s.settleOwed with
    | true => exact .inl ⟨.settle, by simp [exchangeFault_eq, hp, h], by simp [execExchange, exchangeFault_eq, hp, h]⟩
    | false =>
      have hs := s.settleOwed_eq_false_iff.mp h
      exact .inr ⟨p, rfl, hs, execExchange_run out s p hp hs⟩

theorem execFocus_cases (b : Port) (s : State) : execFocus b s = .next (s.raise .settle) ∨
    ((∀ q, (s.port q).settle = 0) ∧ execFocus b s = .next (focusRun b s)) := by
  cases h : s.settleOwed with
  | true => exact .inl (by simp [execFocus, settleFault_eq, h])
  | false =>
    have hs := s.settleOwed_eq_false_iff.mp h
    exact .inr ⟨hs, execFocus_run b s hs⟩

theorem execEnter_cases (s : State) :
    (∃ c, enterFault s = some c ∧ execEnterProgMode s = .next (s.raise c)) ∨
      (∃ p, s.focus = some p ∧ (∀ q, (s.port q).settle = 0) ∧ execEnterProgMode s = .next (enterRun p s)) := by
  cases hp : s.focus with
  | none => exact .inl ⟨.noFocus, by simp [enterFault_eq, hp], by simp [execEnterProgMode, enterFault_eq, hp]⟩
  | some p =>
    cases h : s.settleOwed with
    | true => exact .inl ⟨.settle, by simp [enterFault_eq, hp, h], by simp [execEnterProgMode, enterFault_eq, hp, h]⟩
    | false =>
      have hs := s.settleOwed_eq_false_iff.mp h
      exact .inr ⟨p, rfl, hs, execEnter_run s p hp hs⟩

theorem execIdentify_cases (b : Port) (s : State) : execIdentify b s = .next (s.raise .settle) ∨
    ((∀ q, (s.port q).settle = 0) ∧ execIdentify b s = .next (identifyRun b s)) := by
  cases h : s.settleOwed with
  | true => exact .inl (by simp [execIdentify, settleFault_eq, h])
  | false =>
    have hs := s.settleOwed_eq_false_iff.mp h
    exact .inr ⟨hs, execIdentify_run b s hs⟩

theorem execReadParams_cases (b : Port) (s : State) : execReadParams b s = .next (s.raise .unidentified) ∨
    ((s.port b).written = true ∧ execReadParams b s = .next (paramsRun b s)) := by
  cases h : (s.port b).written with
  | false => exact .inl (by simp [execReadParams, paramsFault_eq, h])
  | true => exact .inr ⟨rfl, execReadParams_run b s h⟩

theorem transactFrame_cases (f : Frame) (s : State) :
    (∃ c, transactFault f s = some c ∧ transactFrame f s = .next (s.raise c)) ∨
      (∃ p c, s.focus = some p ∧ (∀ q, (s.port q).settle = 0) ∧ (s.port p).framePhase = 0 ∧ decodeFrame f = .ok c ∧
        modeOk c (s.port p).mode = true ∧ transactFrame f s = .next (transactRun p c f s)) := by
  cases hf : transactFault f s with
  | some c => exact .inl ⟨c, rfl, by rw [transactFrame, hf]⟩
  | none =>
    right
    cases hp : s.focus with
    | none => rw [transactFault_none f s hp] at hf; cases hf
    | some p =>
      rw [transactFault_eq f s p hp] at hf
      cases h : s.settleOwed with
      | true => simp [h] at hf
      | false =>
        have hs := s.settleOwed_eq_false_iff.mp h
        simp only [h, Bool.false_eq_true, if_false] at hf
        by_cases hz : (s.port p).framePhase = 0
        · simp only [hz, ne_eq, not_true, if_false] at hf
          cases hd : decodeFrame f with
          | error e => rw [hd] at hf; cases hf
          | ok c =>
            rw [hd] at hf
            cases hm : modeOk c (s.port p).mode with
            | false => simp [hm] at hf
            | true => exact ⟨p, c, rfl, hs, hz, rfl, hm, transactFrame_run f s p c hp hs hz hd hm⟩
        · simp [hz] at hf

/-- Every instruction raises one fault or runs in full: an ISP frame and TRANSACT as `transactRun`, the others each as its
own body. It never stops. -/
theorem exec_cases (i : Instr) (s : State) :
    (∃ c, exec i s = .next (s.raise c)) ∨
    (∃ p c f, s.focus = some p ∧ (∀ q, (s.port q).settle = 0) ∧ (s.port p).framePhase = 0 ∧ decodeFrame f = .ok c ∧
      modeOk c (s.port p).mode = true ∧ (i = .transact f ∨ frameOf i = some f) ∧ exec i s = .next (transactRun p c f s)) ∨
    (∃ p out, i = .exchange out ∧ s.focus = some p ∧ (∀ q, (s.port q).settle = 0) ∧
      exec i s = .next (exchangeRun p out s)) ∨
    (∃ b, i = .focus b ∧ (∀ q, (s.port q).settle = 0) ∧ exec i s = .next (focusRun b s)) ∨
    (∃ p, i = .enterProgMode ∧ s.focus = some p ∧ (∀ q, (s.port q).settle = 0) ∧ exec i s = .next (enterRun p s)) ∨
    (∃ b, i = .identify b ∧ (∀ q, (s.port q).settle = 0) ∧ exec i s = .next (identifyRun b s)) ∨
    (∃ b, i = .readParams b ∧ (s.port b).written = true ∧ exec i s = .next (paramsRun b s)) ∨
    (∃ n, i = .waitMs n ∧ exec i s = .next (waitRun n s)) := by
  have frames : ∀ f, exec i s = transactFrame f s → (i = .transact f ∨ frameOf i = some f) →
      (∃ c, exec i s = .next (s.raise c)) ∨
      (∃ p c f, s.focus = some p ∧ (∀ q, (s.port q).settle = 0) ∧ (s.port p).framePhase = 0 ∧ decodeFrame f = .ok c ∧
        modeOk c (s.port p).mode = true ∧ (i = .transact f ∨ frameOf i = some f) ∧
          exec i s = .next (transactRun p c f s)) := by
    intro f he hi
    rcases transactFrame_cases f s with ⟨c, -, h⟩ | ⟨p, c, hp, hs, hz, hd, hm, h⟩
    · exact .inl ⟨c, he.trans h⟩
    · exact .inr ⟨p, c, f, hp, hs, hz, hd, hm, hi, he.trans h⟩
  cases hi : i with
  | exchange out =>
    rcases execExchange_cases out s with ⟨c, -, h⟩ | ⟨p, hp, hs, h⟩
    · exact .inl ⟨c, h⟩
    · exact .inr (.inr (.inl ⟨p, out, rfl, hp, hs, h⟩))
  | focus b =>
    rcases execFocus_cases b s with h | ⟨hs, h⟩
    · exact .inl ⟨_, h⟩
    · exact .inr (.inr (.inr (.inl ⟨b, rfl, hs, h⟩)))
  | enterProgMode =>
    rcases execEnter_cases s with ⟨c, -, h⟩ | ⟨p, hp, hs, h⟩
    · exact .inl ⟨c, h⟩
    · exact .inr (.inr (.inr (.inr (.inl ⟨p, rfl, hp, hs, h⟩))))
  | identify b =>
    rcases execIdentify_cases b s with h | ⟨hs, h⟩
    · exact .inl ⟨_, h⟩
    · exact .inr (.inr (.inr (.inr (.inr (.inl ⟨b, rfl, hs, h⟩)))))
  | readParams b =>
    rcases execReadParams_cases b s with h | ⟨hw, h⟩
    · exact .inl ⟨_, h⟩
    · exact .inr (.inr (.inr (.inr (.inr (.inr (.inl ⟨b, rfl, hw, h⟩))))))
  | waitMs n => exact .inr (.inr (.inr (.inr (.inr (.inr (.inr ⟨n, rfl, rfl⟩))))))
  | transact f =>
    subst hi
    exact (frames f rfl (.inl rfl)).imp id .inl
  | _ =>
    subst hi
    exact (frames _ rfl (.inr rfl)).imp id .inl

/-- Every instruction goes to a next state, whatever the state. -/
theorem exec_next (i : Instr) (s : State) : ∃ t, exec i s = .next t := by
  rcases exec_cases i s with ⟨_, e⟩ | ⟨_, _, _, -, -, -, -, -, -, e⟩ | ⟨_, _, -, -, -, e⟩ | ⟨_, -, -, e⟩ | ⟨_, -, -, -, e⟩ |
    ⟨_, -, -, e⟩ | ⟨_, -, -, e⟩ | ⟨_, -, e⟩ <;> exact ⟨_, e⟩

end Sys2Proof.Machine
end

