-- ==== Sys2Proof/Laws/Memory.lean ====
section
/-! SUPPORT. The laws of a target memory: a read after a write, the canonical form, and that everything the reference target
does keeps its memories canonical. -/

namespace Sys2Proof.Machine

/-! ### Reads -/

/-- A memory whose cells all lie above `a` reads blank there. -/
theorem Memory.read_above (m : Memory) (a : Nat) (h : ∀ c ∈ m, a < c.1) : Memory.read m a = Memory.blank := by
  induction m with
  | nil => rfl
  | cons c m ih =>
    obtain ⟨k, v⟩ := c
    have hk : a < k := h (k, v) (List.mem_cons_self)
    rw [Memory.read, if_neg (by omega)]
    exact ih fun c hc => h c (List.mem_cons_of_mem _ hc)

theorem Memory.read_cons (a : Nat) (v : Byte) (rest : Memory) (h : ∀ c ∈ rest, a < c.1) (b : Nat) :
    Memory.read (Memory.cons a v rest) b = if b = a then v else Memory.read rest b := by
  rw [Memory.cons]
  split
  · rename_i hv
    split
    · rename_i hb
      rw [hb, Memory.read_above _ _ h, hv]
    · rfl
  · rw [Memory.read]
    simp only [eq_comm]

/-- The cells above the first one. -/
theorem Memory.wf_tail {c : Host.Cell} {m : Memory} (h : Memory.wf (c :: m)) :
    Memory.wf m ∧ (∀ d ∈ m, c.1 < d.1) ∧ c.2 ≠ Memory.blank :=
  ⟨⟨(List.pairwise_cons.mp h.1).2, fun d hd => h.2 d (List.mem_cons_of_mem _ hd)⟩, (List.pairwise_cons.mp h.1).1,
    h.2 c List.mem_cons_self⟩

/-- A write changes the byte written and no other. -/
theorem Memory.read_write (m : Memory) (h : Memory.wf m) (a : Nat) (v : Byte) (b : Nat) :
    Memory.read (Memory.write m a v) b = if b = a then v else Memory.read m b := by
  induction m with
  | nil => exact Memory.read_cons a v [] (fun _ hc => absurd hc (List.not_mem_nil)) b
  | cons c m ih =>
    obtain ⟨k, w⟩ := c
    obtain ⟨hm, hk, -⟩ := Memory.wf_tail h
    rw [Memory.write]
    split
    · rename_i hak
      refine Memory.read_cons a v _ (fun c hc => ?_) b
      rcases List.mem_cons.mp hc with rfl | hc
      · exact hak
      · exact Nat.lt_trans hak (hk c hc)
    · split
      · rename_i hak
        rw [Memory.read_cons a v _ (fun c hc => hak ▸ hk c hc)]
        split
        · rfl
        · rename_i hb
          rw [Memory.read, if_neg (by omega)]
      · rename_i h1 h2
        rw [Memory.read, Memory.read, ih hm]
        split
        · rename_i hb
          rw [if_neg (by omega)]
        · rfl

/-! ### The canonical form -/

theorem Memory.wf_cons {a : Nat} {v : Byte} {rest : Memory} (h : Memory.wf rest) (ha : ∀ c ∈ rest, a < c.1) :
    Memory.wf (Memory.cons a v rest) := by
  rw [Memory.cons]
  split
  · exact h
  · rename_i hv
    refine ⟨List.pairwise_cons.mpr ⟨ha, h.1⟩, fun c hc => ?_⟩
    rcases List.mem_cons.mp hc with rfl | hc
    · exact hv
    · exact h.2 c hc

/-- A cell of a written memory is the one written or was there before. -/
theorem Memory.mem_write {m : Memory} {a : Nat} {v : Byte} {c : Host.Cell} (h : c ∈ Memory.write m a v) :
    c.1 = a ∨ c ∈ m := by
  have hcons : ∀ rest : Memory, c ∈ Memory.cons a v rest → c.1 = a ∨ c ∈ rest := by
    intro rest hc
    rw [Memory.cons] at hc
    split at hc
    · exact .inr hc
    · rcases List.mem_cons.mp hc with rfl | hc
      · exact .inl rfl
      · exact .inr hc
  induction m with
  | nil => exact hcons [] h
  | cons d m ih =>
    obtain ⟨k, w⟩ := d
    rw [Memory.write] at h
    split at h
    · exact hcons _ h
    · split at h
      · rcases hcons _ h with h | h
        · exact .inl h
        · exact .inr (List.mem_cons_of_mem _ h)
      · rcases List.mem_cons.mp h with rfl | h
        · exact .inr List.mem_cons_self
        · rcases ih h with h | h
          · exact .inl h
          · exact .inr (List.mem_cons_of_mem _ h)

/-- A write keeps the canonical form. -/
theorem Memory.wf_write {m : Memory} (h : Memory.wf m) (a : Nat) (v : Byte) : Memory.wf (Memory.write m a v) := by
  induction m with
  | nil => exact Memory.wf_cons h fun _ hc => absurd hc (List.not_mem_nil)
  | cons c m ih =>
    obtain ⟨k, w⟩ := c
    obtain ⟨hm, hk, hw⟩ := Memory.wf_tail h
    rw [Memory.write]
    split
    · rename_i hak
      refine Memory.wf_cons h fun c hc => ?_
      rcases List.mem_cons.mp hc with rfl | hc
      · exact hak
      · exact Nat.lt_trans hak (hk c hc)
    · split
      · rename_i hak
        exact Memory.wf_cons hm fun c hc => hak ▸ hk c hc
      · refine ⟨List.pairwise_cons.mpr ⟨fun c hc => ?_, (ih hm).1⟩, fun c hc => ?_⟩
        · rcases Memory.mem_write hc with hc | hc
          · show k < c.1
            omega
          · exact hk c hc
        · rcases List.mem_cons.mp hc with rfl | hc
          · exact hw
          · exact (ih hm).2 c hc

theorem Memory.wf_nil : Memory.wf [] := ⟨List.Pairwise.nil, fun _ hc => absurd hc (List.not_mem_nil)⟩

theorem Memory.wf_fill (n : Nat) (v : Byte) : Memory.wf (Memory.fill n v) := by
  rw [Memory.fill]
  split
  · exact Memory.wf_nil
  · rename_i hv
    refine ⟨List.pairwise_map.mpr (List.pairwise_lt_range.imp id), fun c hc => ?_⟩
    obtain ⟨a, -, rfl⟩ := List.mem_map.mp hc
    exact hv

theorem Memory.wf_copy (src dst : Memory) (from_ to_ n : Nat) (h : Memory.wf dst) :
    Memory.wf (Memory.copy src from_ to_ dst n) := by
  induction n with
  | zero => exact h
  | succ n ih => exact Memory.wf_write ih _ _

/-- What a copy leaves: the bytes of its range are the source's, every other byte is as before. -/
theorem Memory.read_copy (src dst : Memory) (from_ to_ n : Nat) (h : Memory.wf dst) (b : Nat) :
    Memory.read (Memory.copy src from_ to_ dst n) b =
      if to_ ≤ b ∧ b < to_ + n then Memory.read src (from_ + (b - to_)) else Memory.read dst b := by
  induction n with
  | zero => rw [if_neg (by omega)]; rfl
  | succ n ih =>
    rw [Memory.copy, Memory.read_write _ (Memory.wf_copy src dst from_ to_ n h), ih]
    by_cases hb : b = to_ + n
    · rw [if_pos hb, if_pos (by omega), show b - to_ = n by omega]
    · rw [if_neg hb]
      by_cases hr : to_ ≤ b ∧ b < to_ + n
      · rw [if_pos hr, if_pos (by omega)]
      · rw [if_neg hr, if_neg (by omega)]

/-! ### The target -/

theorem Target.wf_act (erased : Byte) (t : Target) (c : Instr) (h : t.wf) : (t.act erased c).wf := by
  obtain ⟨h1, h2, h3⟩ := h
  cases c with
  | writeEe a v => exact ⟨h1, h2, Memory.wf_write h3 _ _⟩
  | chipErase => exact ⟨Memory.wf_fill _ _, h2, h3⟩
  | loadMemLo o v => exact ⟨h1, Memory.wf_write h2 _ _, h3⟩
  | loadMemHi o v => exact ⟨h1, Memory.wf_write h2 _ _, h3⟩
  | writePage w => exact ⟨Memory.wf_copy _ _ _ _ _ h1, Memory.wf_nil, h3⟩
  | _ => exact ⟨h1, h2, h3⟩

theorem Target.wf_frameDone (erased : Byte) (t : Target) (b3 : Byte) (h : t.wf) : (t.frameDone erased b3).wf := by
  rw [Target.frameDone]
  split
  · split
    · exact h
    · exact h
  · exact Target.wf_act _ _ _ h
  · exact h

theorem Target.wf_byteDone (erased : Byte) (t : Target) (b : Byte) (h : t.wf) : (t.byteDone erased b).wf := by
  rw [Target.byteDone]
  split
  · exact h
  · exact h
  · exact h
  · exact Target.wf_frameDone erased t b h

theorem Target.wf_sees (erased : Byte) (x : Line) (old : LineState) (v : Level) (dout : Bool) (t : Target) (h : t.wf) :
    (t.sees erased x old v dout).wf := by
  have hrise : (t.clkRise dout).wf := by
    rw [Target.clkRise]
    split
    · exact h
    · exact h
  have hfall : (t.clkFall erased).wf := by
    rw [Target.clkFall]
    split
    · exact h
    · split
      · exact Target.wf_byteDone erased _ _ h
      · exact h
  have hif : ∀ (c : Prop) [Decidable c] (u : Target), u.wf → (if c then u else t).wf := by
    intro c _ u hu
    split
    · exact hu
    · exact h
  cases x <;> cases v <;> first | exact h | exact hif _ _ h | exact hif _ _ hrise | exact hif _ _ hfall

theorem Attached.wf_sees (erased : Byte) (x : Line) (old : LineState) (v dout : Level) (free : Bool) (a : Attached)
    (h : a.wf) : (a.sees erased x old v dout free).wf := by
  cases a with
  | env l => trivial
  | stuck b => trivial
  | loop => trivial
  | chip t => exact Target.wf_sees _ _ _ _ _ t h

theorem Attached.wf_sampled (a : Attached) (h : a.wf) : a.sampled.wf := by
  cases a with
  | env l => trivial
  | stuck b => trivial
  | loop => trivial
  | chip t => exact h

end Sys2Proof.Machine
end

