-- ==== Sys2Proof/Laws/Perform.lean ====
section
/-! SUPPORT. What an operation shows the lines and the targets is its record: the recorded actions, done again one by one, come
to the same lines and the same targets (20_memory.md R56). So a reset partway leaves a beginning of the record. -/

namespace Sys2Proof.Machine

/-! ### Lines and targets -/

/-- The lines, what is attached to them, and what the levels on them depend on, are the same. -/
structure SameLines (s t : State) : Prop where
  params : s.params = t.params
  draws : s.draws = t.draws
  line : ∀ q x, (s.port q).line x = (t.port q).line x
  attached : ∀ q, (s.port q).attached = (t.port q).attached

theorem SameLines.refl (s : State) : SameLines s s := ⟨rfl, rfl, fun _ _ => rfl, fun _ => rfl⟩

theorem SameLines.symm {s t : State} (h : SameLines s t) : SameLines t s :=
  ⟨h.params.symm, h.draws.symm, fun q x => (h.line q x).symm, fun q => (h.attached q).symm⟩

theorem SameLines.trans {s t u : State} (h : SameLines s t) (k : SameLines t u) : SameLines s u :=
  ⟨h.params.trans k.params, h.draws.trans k.draws, fun q x => (h.line q x).trans (k.line q x),
    fun q => (h.attached q).trans (k.attached q)⟩

/-- A write of one port that keeps its lines and what is attached. -/
theorem SameLines.setPort (s : State) (p : Port) (v : PortState) (hl : ∀ x, (s.port p).line x = v.line x)
    (ha : (s.port p).attached = v.attached) : SameLines s (s.setPort p v) := by
  refine ⟨by simp, by simp, fun q x => ?_, fun q => ?_⟩ <;> by_cases h : q = p
  · subst h; simpa using hl x
  · rw [s.port_setPort_ne p q v h]
  · subst h; simpa using ha
  · rw [s.port_setPort_ne p q v h]

theorem SameLines.dinLevel {s t : State} (h : SameLines s t) (p : Port) : s.dinLevel p = t.dinLevel p := by
  have hd := h.line p .dout
  simp only [PortState.line] at hd
  simp only [State.dinLevel, h.attached p, h.draws, hd]

theorem PortState.line_setLine (v : PortState) (x y : Line) (l : LineState) :
    (v.setLine x l).line y = if y = x then l else v.line y := by
  cases x <;> cases y <;> rfl

theorem PortState.attached_setLine (v : PortState) (x : Line) (l : LineState) : (v.setLine x l).attached = v.attached := by
  cases x <;> rfl

theorem State.drive_line (s : State) (p q : Port) (x y : Line) (v : Level) : ((s.drive p x v).port q).line y =
    if q = p ∧ y = x then ⟨.output, v⟩ else (s.port q).line y := by
  have hs : ∀ (u : PortState) (a : Attached), ({ u with attached := a } : PortState).line y = u.line y := by
    intro u a; cases y <;> rfl
  by_cases h : q = p
  · subst h
    simp [State.drive, hs, PortState.line_setLine]
  · simp [State.drive, s.port_setPort_ne p q _ h, h]

theorem State.drive_attached (s : State) (p q : Port) (x : Line) (v : Level) : ((s.drive p x v).port q).attached =
    if q = p then (s.port p).attached.sees s.params.erasedByte x ((s.port p).line x) v (s.port p).dout.lvl
      (Config.envDin p s.draws) else (s.port q).attached := by
  by_cases h : q = p
  · subst h; simp
  · simp [State.drive, s.port_setPort_ne p q _ h, h]

theorem State.release_line (s : State) (p q : Port) (x y : Line) : ((s.release p x).port q).line y =
    if q = p ∧ y = x then ⟨.input, ((s.port p).line x).lvl⟩ else (s.port q).line y := by
  by_cases h : q = p
  · subst h
    simp [State.release, PortState.line_setLine]
  · simp [State.release, s.port_setPort_ne p q _ h, h]

theorem State.release_attached (s : State) (p q : Port) (x : Line) :
    ((s.release p x).port q).attached = (s.port q).attached := by
  by_cases h : q = p
  · subst h; simp
  · simp [State.release, s.port_setPort_ne p q _ h]

theorem State.sampled_line (s : State) (p q : Port) (y : Line) : ((s.sampled p).port q).line y = (s.port q).line y := by
  by_cases h : q = p
  · subst h; cases y <;> simp [State.sampled, PortState.line]
  · simp [State.sampled, s.port_setPort_ne p q _ h]

theorem State.sampled_attached (s : State) (p q : Port) : ((s.sampled p).port q).attached =
    if q = p then (s.port p).attached.sampled else (s.port q).attached := by
  by_cases h : q = p
  · subst h; simp
  · simp [State.sampled, s.port_setPort_ne p q _ h, h]

/-- An action does the same from the same lines. -/
theorem SameLines.act {s t : State} (h : SameLines s t) (e : LineEvent) : SameLines (s.act e) (t.act e) := by
  cases e with
  | drive x v =>
    have hd := h.line x.port .dout
    simp only [PortState.line] at hd
    refine ⟨by simpa [State.act] using h.params, by simpa [State.act] using h.draws, fun q y => ?_, fun q => ?_⟩
    · simp only [State.act, State.drive_line, h.line]
    · simp only [State.act, State.drive_attached, h.line, h.attached, h.params, h.draws, hd]
  | release x =>
    refine ⟨by simpa [State.act] using h.params, by simpa [State.act] using h.draws, fun q y => ?_, fun q => ?_⟩
    · simp only [State.act, State.release_line, h.line]
    · simp only [State.act, State.release_attached, h.attached]
  | sample p v =>
    refine ⟨by simpa [State.act] using h.params, by simpa [State.act] using h.draws, fun q y => ?_, fun q => ?_⟩
    · simp only [State.act, State.sampled_line, h.line]
    · simp only [State.act, State.sampled_attached, h.attached]
  | delayUs n => exact ⟨h.params, h.draws, fun q x => by simpa [State.act] using h.line q x,
      fun q => by simpa [State.act] using h.attached q⟩
  | delayMs n => exact ⟨h.params, h.draws, fun q x => by simpa [State.act] using h.line q x,
      fun q => by simpa [State.act] using h.attached q⟩

theorem SameLines.acts {s t : State} (h : SameLines s t) (l : List LineEvent) : SameLines (s.acts l) (t.acts l) := by
  induction l generalizing s t with
  | nil => exact h
  | cons e l ih => exact ih (h.act e)

theorem State.acts_append (s : State) (l m : List LineEvent) : s.acts (l ++ m) = (s.acts l).acts m := List.foldl_append

theorem State.acts_cons (s : State) (e : LineEvent) (l : List LineEvent) : s.acts (e :: l) = (s.act e).acts l := rfl

/-! ### What no action changes -/

theorem State.act_focus (s : State) (e : LineEvent) : (s.act e).focus = s.focus := by cases e <;> simp [State.act]
theorem State.act_params (s : State) (e : LineEvent) : (s.act e).params = s.params := by cases e <;> simp [State.act]
theorem State.act_requests (s : State) (e : LineEvent) : (s.act e).requests = s.requests := by cases e <;> simp [State.act]
theorem State.act_free (s : State) (e : LineEvent) : (s.act e).free = s.free := by cases e <;> simp [State.act]

theorem State.acts_params (s : State) (l : List LineEvent) : (s.acts l).params = s.params := by
  induction l generalizing s with
  | nil => rfl
  | cons e l ih => exact (ih (s.act e)).trans (s.act_params e)

theorem State.acts_requests (s : State) (l : List LineEvent) : (s.acts l).requests = s.requests := by
  induction l generalizing s with
  | nil => rfl
  | cons e l ih => exact (ih (s.act e)).trans (s.act_requests e)

theorem State.act_resets (s : State) (e : LineEvent) : (s.act e).resets = s.resets := by cases e <;> simp [State.act]

theorem State.acts_resets (s : State) (l : List LineEvent) : (s.acts l).resets = s.resets := by
  induction l generalizing s with
  | nil => rfl
  | cons e l ih => exact (ih (s.act e)).trans (s.act_resets e)

theorem State.acts_free (s : State) (l : List LineEvent) : (s.acts l).free = s.free := by
  induction l generalizing s with
  | nil => rfl
  | cons e l ih => exact (ih (s.act e)).trans (s.act_free e)

/-- Actions keep the target memories in canonical form. -/
theorem State.act_memories (s : State) (e : LineEvent) (h : ∀ q, (s.port q).attached.wf) :
    ∀ q, ((s.act e).port q).attached.wf := by
  intro q
  cases e with
  | drive x v =>
    rw [State.act, State.drive_attached]
    split
    · exact Attached.wf_sees _ _ _ _ _ _ _ (h _)
    · exact h q
  | sample p v =>
    rw [State.act, State.sampled_attached]
    split
    · exact Attached.wf_sampled _ (h _)
    · exact h q
  | release x => rw [State.act, State.release_attached]; exact h q
  | delayUs n => simpa [State.act] using h q
  | delayMs n => simpa [State.act] using h q

theorem State.acts_memories (s : State) (l : List LineEvent) (h : ∀ q, (s.port q).attached.wf) :
    ∀ q, ((s.acts l).port q).attached.wf := by
  induction l generalizing s with
  | nil => exact h
  | cons e l ih => exact ih (s.act e) (s.act_memories e h)

/-! ### A record that shows what happens -/

/-- Done from `s`, each action of `l` records itself: the samples in it are the levels found there. -/
def State.Shows (s : State) : List LineEvent → Prop
  | [] => True
  | e :: l => (s.act e).wave = e :: s.wave ∧ (s.act e).Shows l

theorem State.shows_append (s : State) (l m : List LineEvent) : s.Shows (l ++ m) ↔ s.Shows l ∧ (s.acts l).Shows m := by
  induction l generalizing s with
  | nil => simp [State.Shows, State.acts]
  | cons e l ih => simp only [List.cons_append, State.Shows, ih, State.acts_cons, and_assoc]

/-- What an action records depends on the lines alone. -/
theorem SameLines.records {s t : State} (h : SameLines s t) (e : LineEvent) (hs : (s.act e).wave = e :: s.wave) :
    (t.act e).wave = e :: t.wave := by
  cases e with
  | sample p v =>
    simp only [State.act, State.sampled_wave, List.cons.injEq, LineEvent.sample.injEq, true_and, and_true] at hs ⊢
    rw [← h.dinLevel p, hs]
  | _ => first | rfl | simp [State.act]

theorem SameLines.shows {s t : State} (h : SameLines s t) (l : List LineEvent) (hs : s.Shows l) : t.Shows l := by
  induction l generalizing s t with
  | nil => trivial
  | cons e l ih => exact ⟨h.records e hs.1, ih (h.act e) hs.2⟩

theorem State.Shows.take {s : State} {l : List LineEvent} (h : s.Shows l) (k : Nat) : s.Shows (l.take k) := by
  rw [← List.take_append_drop k l, State.shows_append] at h
  exact h.1

theorem State.Shows.wave {s : State} {l : List LineEvent} (h : s.Shows l) : (s.acts l).wave = l.reverse ++ s.wave := by
  induction l generalizing s with
  | nil => rfl
  | cons e l ih => rw [State.acts_cons, ih h.2, h.1]; simp

/-- From `s` to `t` the actions `l` were done and recorded, and nothing else happened on the lines. -/
structure Replays (l : List LineEvent) (s t : State) : Prop where
  shows : s.Shows l
  wave : t.wave = l.reverse ++ s.wave
  lines : SameLines (s.acts l) t

theorem Replays.quiet {s t : State} (h : SameLines s t) (hw : t.wave = s.wave) : Replays [] s t := ⟨trivial, hw, h⟩

theorem Replays.refl (s : State) : Replays [] s s := .quiet (.refl s) rfl

theorem Replays.trans {l m : List LineEvent} {s t u : State} (h : Replays l s t) (k : Replays m t u) :
    Replays (l ++ m) s u where
  shows := (s.shows_append l m).mpr ⟨h.shows, h.lines.symm.shows m k.shows⟩
  wave := by rw [k.wave, h.wave]; simp
  lines := by rw [State.acts_append]; exact (h.lines.acts m).trans k.lines

/-- A change that no line shows, after an operation. -/
theorem Replays.then {l : List LineEvent} {s t u : State} (h : Replays l s t) (k : SameLines t u) (hw : u.wave = t.wave) :
    Replays l s u := by simpa using h.trans (.quiet k hw)

/-- A change that no line shows, before one. -/
theorem Replays.after {l : List LineEvent} {s t u : State} (h : Replays l t u) (k : SameLines s t) (hw : t.wave = s.wave) :
    Replays l s u := by simpa using (Replays.quiet k hw).trans h

/-- Bookkeeping on a port, after an operation. -/
theorem Replays.thenPort {l : List LineEvent} {s t : State} (h : Replays l s t) (p : Port) (v : PortState)
    (hl : ∀ x, (t.port p).line x = v.line x) (ha : (t.port p).attached = v.attached) : Replays l s (t.setPort p v) :=
  h.then (.setPort t p v hl ha) (t.setPort_wave p v)

theorem Replays.drive (s : State) (p : Port) (x : Line) (v : Level) : Replays [.drive ⟨p, x⟩ v] s (s.drive p x v) :=
  ⟨⟨by simp [State.act], trivial⟩, by simp, .refl _⟩

theorem Replays.release (s : State) (p : Port) (x : Line) : Replays [.release ⟨p, x⟩] s (s.release p x) :=
  ⟨⟨by simp [State.act], trivial⟩, by simp, .refl _⟩

theorem Replays.sampled (s : State) (p : Port) : Replays [.sample p (s.dinLevel p)] s (s.sampled p) :=
  ⟨⟨by simp [State.act], trivial⟩, by simp, .refl _⟩

theorem Replays.delayUs (s : State) (n : Nat) : Replays [.delayUs n] s (s.delayUs n) := ⟨⟨rfl, trivial⟩, rfl, .refl _⟩

theorem Replays.delayMs (s : State) (n : Nat) : Replays [.delayMs n] s (s.delayMs n) := ⟨⟨rfl, trivial⟩, rfl, .refl _⟩

theorem SameLines.setScratch (s : State) (k : Config.Scratch) : SameLines s (s.setScratch k) :=
  ⟨rfl, rfl, fun q x => by simp, fun q => by simp⟩

theorem SameLines.newRecord (s : State) : SameLines s.newRecord s :=
  ⟨rfl, rfl, fun q x => by simp, fun q => by simp⟩

theorem SameLines.start (s : State) (op : Config.HostOp) : SameLines s (s.start op) :=
  ⟨rfl, rfl, fun q x => by simp, fun q => by simp⟩

theorem SameLines.setPhase (s : State) (x : Config.Phase) : SameLines s (s.setPhase x) := .setScratch _ _

theorem SameLines.setFocus (s : State) (f : Option Port) : SameLines s (s.setFocus f) :=
  ⟨rfl, rfl, fun q x => by simp, fun q => by simp⟩

theorem SameLines.finish (s : State) (r : Result) : SameLines s (s.finish r) :=
  ⟨rfl, rfl, fun q x => by simp, fun q => by simp⟩

/-! ### Bits, bytes and frames -/

theorem State.shiftBit_replays (s : State) (p : Port) (i : Fin 8) :
    ∃ l, l.length = 6 ∧ Replays l s (s.shiftBit p i) := by
  have h : Replays ([.drive ⟨p, .clk⟩ .low] ++ [.drive ⟨p, .dout⟩ (levelOf (s.scratch.srOut.getLsbD i.val))] ++
      [.delayUs s.params.tHalfUs] ++ [.drive ⟨p, .clk⟩ .high]) s (s.atSample p i) :=
    ((((Replays.drive _ p .clk .low).trans (.drive _ p .dout _)).trans (.delayUs _ _)).trans (.drive _ p .clk .high)).after
      (.setScratch s _) rfl
  rw [State.shiftBit_eq]
  exact ⟨_, by rfl, ((h.trans (.sampled _ p)).then (.setScratch _ _) (by rfl)).trans (.delayUs _ _)⟩

theorem State.shift8_replays (s : State) (p : Port) (out : Byte) :
    ∃ l, l.length = 49 ∧ Replays l s (s.shift8 p out) := by
  obtain ⟨l7, h7, r7⟩ := State.shiftBit_replays (s.setScratch { s.scratch with srOut := out, srIn := 0 }) p 7
  obtain ⟨l6, h6, r6⟩ := State.shiftBit_replays _ p 6
  obtain ⟨l5, h5, r5⟩ := State.shiftBit_replays _ p 5
  obtain ⟨l4, h4, r4⟩ := State.shiftBit_replays _ p 4
  obtain ⟨l3, h3, r3⟩ := State.shiftBit_replays _ p 3
  obtain ⟨l2, h2, r2⟩ := State.shiftBit_replays _ p 2
  obtain ⟨l1, h1, r1⟩ := State.shiftBit_replays _ p 1
  obtain ⟨l0, h0, r0⟩ := State.shiftBit_replays _ p 0
  refine ⟨_, ?_, ((((((((r7.after (.setScratch s _) rfl).trans r6).trans r5).trans r4).trans r3).trans r2).trans r1).trans
    r0).trans (.drive _ p .clk .low)⟩
  simp [h7, h6, h5, h4, h3, h2, h1, h0]

theorem State.shiftByte_replays (s : State) (p : Port) (k : Fin 4) : ∃ l, l.length = 49 ∧ Replays l s (s.shiftByte p k) := by
  obtain ⟨l, hl, h⟩ := State.shift8_replays (s.setScratch { s.scratch with byteIdx := k }) p (regAt s.scratch.cmd k)
  exact ⟨l, hl, (h.after (.setScratch s _) rfl).then (.setScratch _ _) rfl⟩

/-- Bytes j to j + k of a frame. -/
theorem State.afterBytes_replays (s : State) (p : Port) (f : Frame) (j : Nat) : ∀ k,
    ∃ l, l.length = 49 * k ∧ Replays l (s.afterBytes p f j) (s.afterBytes p f (j + k))
  | 0 => ⟨[], rfl, .refl _⟩
  | k + 1 => by
    obtain ⟨l, hl, h⟩ := s.afterBytes_replays p f j k
    obtain ⟨m, hm, h'⟩ := State.shiftByte_replays (s.afterBytes p f (j + k)) p (Fin.ofNat 4 (j + k))
    exact ⟨l ++ m, by simp [hl, hm]; omega, h.trans h'⟩

theorem State.shiftFrame_replays (s : State) (p : Port) (f : Frame) : ∃ l, Replays l s (s.shiftFrame p f) := by
  obtain ⟨l, -, h⟩ := s.afterBytes_replays p f 0 4
  exact ⟨l, h.after (.setScratch s _) rfl⟩

theorem State.commandSent_lines (s : State) (p : Port) (c : Instr) : SameLines s (s.commandSent p c) :=
  .setPort s p _ (fun x => by cases x <;> rfl) rfl

theorem State.sendCommand_replays (s : State) (p : Port) (c : Instr) (f : Frame) : ∃ l, Replays l s (s.sendCommand p c f) := by
  obtain ⟨l, h⟩ := s.shiftFrame_replays p f
  exact ⟨l, h.then (State.commandSent_lines _ p c) (State.setPort_wave _ _ _)⟩

/-! ### The bodies of the operations -/

theorem strobe_replays (p : Port) (s : State) : ∃ l, Replays l s (strobe p s) :=
  ⟨_, (((((((((Replays.drive _ p .rst .low).after (.setPhase s .strobeLow) rfl).trans (.delayUs _ _)).then
    (.setPhase _ .strobeIdle) rfl).trans (.drive _ p .rst .high)).trans (.delayUs _ _)).then (.setPhase _ .strobeActive)
      rfl).trans (.drive _ p .rst .low)).then (.setPhase _ .settleWait) rfl).trans (.delayUs _ _) |>.thenPort p _
        (fun x => by cases x <;> rfl) (by rfl)⟩

theorem enterBody_replays (p : Port) (s : State) : ∃ l, Replays l s (enterBody p s) := by
  obtain ⟨l, h⟩ := strobe_replays p s
  obtain ⟨m, h'⟩ := State.sendCommand_replays ((strobe p s).setPhase .enable) p .progEn progEnFrame
  exact ⟨l ++ m, h.trans (h'.after (.setPhase _ _) rfl)⟩

theorem readSigBody_replays (b : Port) (n : Fin 3) (s : State) : ∃ l, Replays l s (readSigBody b n s) := by
  obtain ⟨l, h⟩ := State.sendCommand_replays (s.setPhase (.sig n)) b (.readSig (BitVec.ofNat 8 n.val))
    (readSigFrame (BitVec.ofNat 8 n.val))
  exact ⟨l, h.after (.setPhase _ _) rfl⟩

theorem bindPort_replays (b : Port) (s : State) : ∃ l, Replays l s (bindPort b s) :=
  ⟨_, ((((Replays.release _ b .din).after (.setFocus s (some b)) rfl).trans (.drive _ b .clk .low)).trans
    (.drive _ b .rst .high)).trans (.drive _ b .dout .unspecified) |>.thenPort b _
      (fun x => by cases x <;> rfl) (by rfl)⟩

theorem releasePort_replays (q : Port) (s : State) : ∃ l, Replays l s (releasePort q s) :=
  ⟨_, ((Replays.release s q .rst).trans (.release _ q .clk)).trans (.release _ q .dout)⟩

theorem focusBody_replays (b : Port) (s : State) : ∃ l, Replays l s (focusBody b s) := by
  rw [focusBody]
  split
  · exact bindPort_replays b s
  · obtain ⟨l, h⟩ := releasePort_replays ‹_› s
    obtain ⟨m, h'⟩ := bindPort_replays b (releasePort ‹_› s)
    exact ⟨l ++ m, h.trans h'⟩

/-- Every operation does on the lines what it records, from the empty record on. -/
theorem exec_replays (i : Instr) (s t : State) (h : exec i s = .next t) :
    Replays t.waveform s.newRecord t := by
  have fin : ∀ (op : Config.HostOp) (u : State), (∃ l, Replays l (s.start op) u) → SameLines u t → t.wave = u.wave →
      Replays t.waveform s.newRecord t := by
    rintro op u ⟨l, hl⟩ hu hw
    have h' := (hl.then hu hw).after (s := s.newRecord) ((SameLines.newRecord s).trans (.start s op)) rfl
    have hx : t.waveform = l := by rw [State.waveform, h'.wave]; simp
    rw [hx]; exact h'
  rcases exec_cases i s with ⟨c, e⟩ | ⟨p, c, f, -, -, -, -, -, -, e⟩ | ⟨p, out, -, -, -, e⟩ | ⟨b, -, -, e⟩ | ⟨p, -, -, -, e⟩ |
    ⟨b, -, -, e⟩ | ⟨b, -, -, e⟩ | ⟨n, -, e⟩ <;> (rw [h] at e; obtain rfl := Host.Outcome.next.inj e)
  · exact ⟨trivial, rfl, rfl, rfl, fun _ _ => rfl, fun _ => rfl⟩
  · exact fin .transact _ (State.sendCommand_replays _ p c f) (.finish _ _) rfl
  · obtain ⟨l, -, hl⟩ := State.shift8_replays (s.start .exchange) p out
    exact fin .exchange (((s.start .exchange).shift8 p out).setPort p _) ⟨l, hl.thenPort p _ (fun x => by cases x <;> rfl)
      (by rfl)⟩ (.finish _ _) (by rfl)
  · exact fin .focus _ (focusBody_replays b _) (.finish _ _) rfl
  · exact fin .enterProgMode _ (enterBody_replays p _) (.finish _ _) rfl
  · obtain ⟨l1, r1⟩ := focusBody_replays b ((s.start .identify).setPhase .focusing)
    obtain ⟨l2, r2⟩ := enterBody_replays b ((focusBody b ((s.start .identify).setPhase .focusing)).setPhase .entering)
    obtain ⟨l3, r3⟩ := readSigBody_replays b 0
      (enterBody b ((focusBody b ((s.start .identify).setPhase .focusing)).setPhase .entering))
    obtain ⟨l4, r4⟩ := readSigBody_replays b 1 (readSigBody b 0
      (enterBody b ((focusBody b ((s.start .identify).setPhase .focusing)).setPhase .entering)))
    obtain ⟨l5, r5⟩ := readSigBody_replays b 2 (readSigBody b 1 (readSigBody b 0
      (enterBody b ((focusBody b ((s.start .identify).setPhase .focusing)).setPhase .entering))))
    have r := ((((r1.after (.setPhase _ _) rfl).trans (r2.after (.setPhase _ _) rfl)).trans r3).trans r4).trans r5
    exact fin .identify _ ⟨_, r.thenPort b _ (fun x => by cases x <;> rfl) (by rfl)⟩ (.finish _ _) (by rfl)
  · exact fin .readParams _ ⟨[], .refl _⟩ (.finish _ _) rfl
  · exact fin .waitMs _ ⟨_, ((Replays.delayMs _ n.toNat).thenPort .socket _ (fun x => by cases x <;> rfl) (by rfl)).thenPort
      .bus _ (fun x => by cases x <;> rfl) (by rfl)⟩ (.finish _ _) (by rfl)

/-! ### `perform`, and a reset partway -/

theorem perform_ok {w : HostWord} {i : Instr} (h : decodeHost w = .ok i) (s : State) : perform w s = exec i s := by
  rw [perform, h]

theorem perform_reserved {w : HostWord} (h : ∀ i, decodeHost w ≠ .ok i) (s : State) : perform w s = .next (refuseWord s) := by
  rw [perform]
  split
  · rfl
  · exact absurd ‹_› (h _)

/-- The word is performed to a next state, and its record is what it did on the lines. -/
theorem perform_cases (w : HostWord) (s : State) : ∃ u, perform w s = .next u ∧
    Replays u.waveform s.newRecord u := by
  cases h : decodeHost w with
  | error e =>
    exact ⟨refuseWord s, by rw [perform, h], ⟨trivial, rfl, rfl, rfl, fun _ _ => rfl, fun _ => rfl⟩⟩
  | ok i =>
    obtain ⟨u, hu⟩ := exec_next i s
    exact ⟨u, (perform_ok h s).trans hu, exec_replays i s u hu⟩

/-- The block after a reset is the reset state, but for the model's own fields and what is attached. -/
theorem blockReset_port (s : State) (q : Port) :
    (blockReset s).port q = { PortState.reset with attached := (s.port q).attached } := by
  cases q <;> rfl

theorem resetPartway_port (k : Nat) (w : HostWord) (s : State) (q : Port) :
    (resetPartway k w s).port q = { PortState.reset with attached := ((partway k w s).port q).attached } := by
  cases q <;> rfl

/-- An operation partway has done and recorded the beginning of what it would have. -/
theorem partway_eq {w : HostWord} {s u : State} (h : perform w s = .next u) (k : Nat) :
    partway k w s = s.newRecord.acts (u.waveform.take k) := by
  rw [partway, h]

theorem partway_waveform {w : HostWord} {s u : State} (h : perform w s = .next u) (k : Nat) :
    (partway k w s).waveform = u.waveform.take k := by
  obtain ⟨v, hv, r⟩ := perform_cases w s
  obtain rfl := Host.Outcome.next.inj (h.symm.trans hv)
  rw [partway_eq h, State.waveform, (r.shows.take k).wave]
  simp

/-- All actions done, the lines and targets are those of the whole operation. -/
theorem partway_whole {w : HostWord} {s u : State} (h : perform w s = .next u) (k : Nat) (hk : u.waveform.length ≤ k) :
    SameLines (partway k w s) u := by
  obtain ⟨v, hv, r⟩ := perform_cases w s
  obtain rfl := Host.Outcome.next.inj (h.symm.trans hv)
  rw [partway_eq h, List.take_of_length_le hk]
  exact r.lines

theorem partway_memories (w : HostWord) (s : State) (k : Nat) (h : ∀ q, (s.port q).attached.wf) :
    ∀ q, ((partway k w s).port q).attached.wf := by
  obtain ⟨u, hu, -⟩ := perform_cases w s
  rw [partway_eq hu]
  exact State.acts_memories _ _ (fun q => by simpa using h q)

/-- A frame after m of its four bytes, as far as the lines go: the record has 49 actions a byte. -/
theorem partway_bytes {w : HostWord} {p : Port} {c : Instr} {f : Frame} {s : State}
    (h : perform w s = .next (transactRun p c f s)) (m : Fin 4) :
    SameLines (partway (49 * m.val) w s) ((s.start .transact).afterBytes p f m.val) := by
  obtain ⟨l, hl, r⟩ := (s.start .transact).afterBytes_replays p f 0 m.val
  obtain ⟨l', -, r'⟩ := (s.start .transact).afterBytes_replays p f m.val (4 - m.val)
  rw [Nat.zero_add] at r
  rw [show m.val + (4 - m.val) = 4 by omega] at r'
  have hw : (transactRun p c f s).waveform = l ++ l' := by
    have h4 : (transactRun p c f s).wave = ((s.start .transact).afterBytes p f 4).wave := by
      simp [transactRun, State.sendCommand, State.commandSent, State.shiftFrame_eq]
    rw [State.waveform, h4, r'.wave, r.wave]
    simp [State.afterBytes]
  rw [partway_eq h, hw, ← hl, List.take_left']
  · refine SameLines.trans ?_ r.lines
    exact (((SameLines.newRecord s).trans (.start s .transact)).trans (.setScratch _ _)).acts l
  · rfl

theorem partway_kept (w : HostWord) (s : State) (k : Nat) : (partway k w s).params = s.params ∧
    (partway k w s).requests = s.requests ∧ (partway k w s).resets = s.resets ∧ (partway k w s).free = s.free := by
  obtain ⟨u, hu, -⟩ := perform_cases w s
  rw [partway_eq hu]
  exact ⟨State.acts_params _ _, State.acts_requests _ _, State.acts_resets _ _, State.acts_free _ _⟩

/-- A step in which a reset lands. -/
theorem step_reset {s : State} {w : HostWord} {rest : List HostWord} {k : Nat} (hb : s.busy = false)
    (hr : s.requests = w :: rest) (hk : s.resetDue = some k) :
    step s = .next (resetPartway k w { s.passReset with requests := rest }) := by
  simp [step, takeRequest, hr, hb, hk]

/-- A step with no word presented. -/
theorem step_wait {s : State} (hr : s.requests = []) : step s = .next (waitForWord s) := by
  simp [step, takeRequest, hr]

/-- A step in which none lands. -/
theorem step_perform {s : State} {w : HostWord} {rest : List HostWord} (hb : s.busy = false)
    (hr : s.requests = w :: rest) (hk : s.resetDue = none) :
    step s = perform w { s.passReset with requests := rest } := by
  simp [step, takeRequest, hr, hb, hk]

end Sys2Proof.Machine
end

