-- ==== Sys2Proof/Tests/Slice0.lean ====
section
/-! SUPPORT. The model's own tests. Expected values come from the vectors of 95_test_vectors.md (named in each test) or from
the tables of 30_encoding.md; after them one witness per statement with hypotheses. -/

namespace Sys2Proof.Tests

set_option Elab.async false

open Sys2Proof Sys2Proof.Machine

/-! ### Small states -/

/-- The default parameters with P_UNFOCUSED_LINES and ERASED_BYTE chosen. -/
def params (u : Config.UnfocusedLines) : Config.Params :=
  { Config.Params.default with unfocusedLines := u, erasedByte := 0xFF }

/-- After reset, with `a` attached to SOCKET and `b` to BUS. -/
def afterReset (a b : Attached) (u : Config.UnfocusedLines := .hold) : State :=
  { State.reset with
    params := params u
    socket := { PortState.reset with attached := a }
    bus := { PortState.reset with attached := b } }

/-- "after `focus socket`" of 95_test_vectors.md, with `a` attached to SOCKET. -/
def focused (a : Attached) (u : Config.UnfocusedLines := .hold) : State :=
  { afterReset a (.stuck true) u with
    focus := some .socket
    socket :=
      { PortState.reset with
        rst := ⟨.output, .high⟩
        clk := ⟨.output, .low⟩
        dout := ⟨.output, .unspecified⟩
        mode := .idle
        attached := a } }

/-- "enabled S" of 95_test_vectors.md section 3.2, with `a` attached, `owed` ms of settle owed and FRAME_PHASE `k`. -/
def enabled (a : Attached) (u : Config.UnfocusedLines := .hold) (owed : Nat := 0) (k : Fin 4 := 0) : State :=
  { afterReset a (.stuck true) u with
    focus := some .socket
    socket :=
      { PortState.reset with
        rst := ⟨.output, .low⟩
        clk := ⟨.output, .low⟩
        dout := ⟨.output, .low⟩
        mode := .enableSent
        framePhase := k
        settle := owed
        attached := a } }

/-- T84 in programming mode, between two frames. -/
def t84on : Target := { Target.t84 with mode := .prog }

/-- A named table row was identified on SOCKET. -/
def recorded : State :=
  { afterReset .loop .loop with
    socket := { PortState.reset with chip := ⟨0x0C931E, 32, 128, 256⟩, written := true, attached := .loop } }

/-- The state an outcome goes to. -/
def after : Host.Outcome State Fault Refusal → Option State
  | .next t => some t
  | .fault _ => none
  | .refused _ => none

/-- RESULT after an instruction. -/
def resultOf (i : Instr) (s : State) : Option Result := (after (exec i s)).map State.result

/-- A fact of SOCKET after an instruction. -/
def socketAfter {α : Type} (f : PortState → α) (i : Instr) (s : State) : Option α :=
  (after (exec i s)).map (fun t => f t.socket)

/-- A fact of the reference target on SOCKET after an instruction. -/
def targetAfter {α : Type} (f : Target → α) (i : Instr) (s : State) : Option α :=
  (after (exec i s)).bind fun t =>
    match t.socket.attached with
    | .chip g => some (f g)
    | .env _ => none
    | .stuck _ => none
    | .loop => none

/-- The host presents `w`, and the environment resets the block after `k` line actions. -/
def resetIn (k : Nat) (w : HostWord) (s : State) : State := { s.present w with resets := [some k] }

/-- The numbers of the codes in FAULTS after an instruction. -/
def faultsAfter (i : Instr) (s : State) : Option (List Nat) :=
  (after (exec i s)).map (fun t => t.faults.map FaultCode.number)

/-! ### WellFormed: an ill-formed term for each check (30_encoding.md R81, R82) -/

theorem test_frame_number_out_of_range : TextFrame.wellFormed (.frame 0x100000000) = false := by decide
theorem test_read_sig_out_of_range : TextFrame.wellFormed (.readSig 256) = false := by decide
theorem test_read_ee_out_of_range : TextFrame.wellFormed (.readEe 256) = false := by decide
theorem test_write_ee_addr_out_of_range : TextFrame.wellFormed (.writeEe 256 0) = false := by decide
theorem test_write_ee_value_out_of_range : TextFrame.wellFormed (.writeEe 0 256) = false := by decide
theorem test_write_fuse_out_of_range : TextFrame.wellFormed (.writeFuseLo 256) = false ∧
    TextFrame.wellFormed (.writeFuseHi 256) = false ∧ TextFrame.wellFormed (.writeFuseExt 256) = false := by decide
theorem test_word_address_out_of_range : TextFrame.wellFormed (.readMemLo 65536) = false ∧
    TextFrame.wellFormed (.readMemHi 65536) = false ∧ TextFrame.wellFormed (.writePage 65536) = false := by decide
theorem test_load_offset_out_of_range : TextFrame.wellFormed (.loadMemLo 256 0) = false ∧
    TextFrame.wellFormed (.loadMemHi 256 0) = false := by decide
theorem test_load_value_out_of_range : TextFrame.wellFormed (.loadMemLo 0 256) = false ∧
    TextFrame.wellFormed (.loadMemHi 0 256) = false := by decide
theorem test_exchange_out_of_range : TextLine.wellFormed (.exchange 256) = false := by decide
theorem test_transact_line_out_of_range : TextLine.wellFormed (.transact (.readSig 256)) = false := by decide
theorem test_wait_out_of_range : TextLine.wellFormed (.waitMs 0x100000000) = false := by decide
theorem test_read_word_out_of_range : TextLine.wellFormed (.readWord 65536) = false := by decide
theorem test_load_word_out_of_range : TextLine.wellFormed (.loadWord 256 0) = false ∧
    TextLine.wellFormed (.loadWord 0 65536) = false := by decide

/-! ### Decoding: a word written out for each constructor (30_encoding.md R72, R76; 95_test_vectors.md W4, V14 to V24, V47 to
V53) -/

theorem test_decode_prog_en : decodeTableWord 32 0xAC530000 = some .progEn := by decide
theorem test_decode_read_sig : decodeTableWord 32 0x30000200 = some (.readSig 2) := by decide
theorem test_decode_read_ee : decodeTableWord 32 0xA0001000 = some (.readEe 0x10) := by decide
theorem test_decode_write_ee : decodeTableWord 32 0xC000105A = some (.writeEe 0x10 0x5A) := by decide
theorem test_decode_read_fuse_lo : decodeTableWord 32 0x50000000 = some .readFuseLo := by decide
theorem test_decode_read_fuse_ext : decodeTableWord 32 0x50080000 = some .readFuseExt := by decide
theorem test_decode_read_fuse_hi : decodeTableWord 32 0x58080000 = some .readFuseHi := by decide
theorem test_decode_write_fuse_lo : decodeTableWord 32 0xACA00062 = some (.writeFuseLo 0x62) := by decide
theorem test_decode_write_fuse_hi : decodeTableWord 32 0xACA800DF = some (.writeFuseHi 0xDF) := by decide
theorem test_decode_write_fuse_ext : decodeTableWord 32 0xACA400FF = some (.writeFuseExt 0xFF) := by decide
theorem test_decode_chip_erase : decodeTableWord 32 0xAC800000 = some .chipErase := by decide
theorem test_decode_read_mem_lo : decodeTableWord 32 0x20012300 = some (.readMemLo 0x0123) := by decide
theorem test_decode_read_mem_hi : decodeTableWord 32 0x28012300 = some (.readMemHi 0x0123) := by decide
theorem test_decode_load_mem_lo : decodeTableWord 32 0x40000511 = some (.loadMemLo 0x05 0x11) := by decide
theorem test_decode_load_mem_hi : decodeTableWord 32 0x48000522 = some (.loadMemHi 0x05 0x22) := by decide
theorem test_decode_write_page : decodeTableWord 32 0x4C002000 = some (.writePage 0x0020) := by decide
theorem test_decode_exchange : decodeTableWord 40 0x000000A501 = some (.exchange 0xA5) := by decide
theorem test_decode_transact : decodeTableWord 40 0xAC53000002 = some (.transact 0xAC530000) := by decide
theorem test_decode_focus : decodeTableWord 40 0x0000000013 = some (.focus .bus) := by decide
theorem test_decode_enter_prog_mode : decodeTableWord 40 0x0000000004 = some .enterProgMode := by decide
theorem test_decode_identify : decodeTableWord 40 0x0000000015 = some (.identify .bus) := by decide
theorem test_decode_read_params : decodeTableWord 40 0x0000000006 = some (.readParams .socket) := by decide
theorem test_decode_wait_ms : decodeTableWord 40 0x0000000407 = some (.waitMs 4) := by decide

/-- 95_test_vectors.md V10, V11, V29c to V29e, V54 to V56. -/
theorem test_reserved_words : ∀ w ∈ [0x000001A501, 0x000000A511, 0x0000000103, 0x0000000023, 0x0000000014, 0x0000000000,
    0x0000000008, 0x000000000F, 0x0000000012, 0x00000000E2], decodeTableWord 40 w = none := by decide

/-- 95_test_vectors.md V22, V23. -/
theorem test_unlisted_frames : ∀ f ∈ [0x58000000, 0x30010000, 0xAC530001, 0x50000001, 0xC0FF0000, 0x48010000, 0x00000000,
    0xFFFFFFFF], decodeTableWord 32 f = none := by decide

/-- Only the two widths of the table are words. -/
theorem test_other_widths : decodeTableWord 16 0x3000 = none ∧ decodeTableWord 40 0x10000000004 = none := by decide

/-! ### The text reader (30_encoding.md R81, R82) -/

theorem test_read_line_transact : readLine "transact write_ee 0x10, 0x5A".toList = some (.transact (.writeEe 0x10 0x5A)) := by
  decide +kernel

theorem test_read_line_frame : readLine "transact frame 0xAC530000".toList = some (.transact (.frame 0xAC530000)) := by
  decide +kernel

theorem test_read_line_refuses : readLine "exchange 256".toList = none ∧ readLine "wait_ms 4294967296".toList = none ∧
    readLine "transact frame 0x123".toList = none ∧ readLine "focus spare".toList = none := by
  decide +kernel

theorem test_load_word : (readLine "load_word 0, 0x2211".toList).bind TextLine.assemble =
    some [0x4000001102, 0x4800002202] := by
  decide +kernel

/-! ### One step of each instruction -/

/-- V1, V6: loopback. -/
theorem test_exchange_loop : resultOf (.exchange 0xA5) (focused .loop) = some (.done (.byte 0xA5)) := by decide +kernel

/-- V3. -/
theorem test_exchange_samples :
    resultOf (.exchange 0x00) (focused (.env [true, true, false, false, true, false, true, true])) =
      some (.done (.byte 0xCB)) := by
  decide +kernel

/-- V13. -/
theorem test_transact_loop : resultOf (.transact 0x30000100) (enabled .loop) = some (.done (.frame 0x30000100)) := by
  decide +kernel

/-- V22. -/
theorem test_transact_unlisted : faultsAfter (.transact 0x58000000) (enabled .loop) = some [5] := by decide +kernel

/-- V14. -/
theorem test_prog_en : resultOf .progEn (enabled (.chip t84on)) = some (.done (.frame 0x00AC5300)) := by decide +kernel

/-- V24 up to R3, which 41_framer.md R124 makes a draw. -/
theorem test_read_sig : (after (exec (.readSig 3) (enabled (.chip t84on)))).map
    (fun t => ((samplesOn .socket t.waveform).take 24, (samplesOn .socket t.waveform).length)) =
      some ((frameBits 0x00300000).take 24, 32) := by
  decide +kernel

/-- V30's fourth frame. -/
theorem test_read_sig_two : resultOf (.readSig 2) (enabled (.chip t84on)) = some (.done (.frame 0x0030000C)) := by
  decide +kernel

/-- V15. -/
theorem test_read_ee :
    resultOf (.readEe 0x10) (enabled (.chip { t84on with ee := [(0x10, 0x5A)] })) = some (.done (.frame 0x00A0005A)) := by
  decide +kernel

/-- V19. -/
theorem test_write_ee : resultOf (.writeEe 0x10 0x5A) (enabled (.chip t84on)) = some (.done (.frame 0x00C00010)) ∧
    socketAfter PortState.settle (.writeEe 0x10 0x5A) (enabled (.chip t84on)) = some 4 := by
  decide +kernel

/-- V19. -/
theorem test_write_ee_target : targetAfter Target.ee (.writeEe 0x10 0x5A) (enabled (.chip t84on)) = some [(0x10, 0x5A)] := by
  decide +kernel

/-- V16. -/
theorem test_read_fuse_lo : resultOf .readFuseLo (enabled (.chip t84on)) = some (.done (.frame 0x00500062)) := by
  decide +kernel

/-- V16. -/
theorem test_read_fuse_hi : resultOf .readFuseHi (enabled (.chip t84on)) = some (.done (.frame 0x005808DF)) := by
  decide +kernel

/-- V16. -/
theorem test_read_fuse_ext : resultOf .readFuseExt (enabled (.chip t84on)) = some (.done (.frame 0x005008FF)) := by
  decide +kernel

/-- V20 and TM5. -/
theorem test_write_fuse_lo : socketAfter PortState.settle (.writeFuseLo 0x64) (enabled (.chip t84on)) = some 5 ∧
    targetAfter Target.fuseLo (.writeFuseLo 0x64) (enabled (.chip t84on)) = some 0x64 := by
  decide +kernel

/-- V20 and TM5. -/
theorem test_write_fuse_hi : socketAfter PortState.settle (.writeFuseHi 0xD7) (enabled (.chip t84on)) = some 5 ∧
    targetAfter Target.fuseHi (.writeFuseHi 0xD7) (enabled (.chip t84on)) = some 0xD7 := by
  decide +kernel

/-- V20 and TM5. -/
theorem test_write_fuse_ext : socketAfter PortState.settle (.writeFuseExt 0xFE) (enabled (.chip t84on)) = some 5 ∧
    targetAfter Target.fuseExt (.writeFuseExt 0xFE) (enabled (.chip t84on)) = some 0xFE := by
  decide +kernel

/-- V20 and TM5, with ERASED_BYTE = 0xFF. -/
theorem test_chip_erase : socketAfter PortState.settle .chipErase (enabled (.chip t84on)) = some 10 ∧
    targetAfter Target.pmem .chipErase (enabled (.chip { t84on with pmem := [(2, 0x11)] })) = some [] := by
  decide +kernel

/-- V17: PMEM[0x0123] = 0xBEEF. -/
theorem test_read_mem_lo :
    resultOf (.readMemLo 0x0123) (enabled (.chip { t84on with pmem := [(0x246, 0xEF), (0x247, 0xBE)] })) =
      some (.done (.frame 0x002001EF)) := by
  decide +kernel

/-- V18. -/
theorem test_read_mem_hi :
    resultOf (.readMemHi 0x0123) (enabled (.chip { t84on with pmem := [(0x246, 0xEF), (0x247, 0xBE)] })) =
      some (.done (.frame 0x002801BE)) := by
  decide +kernel

/-- V21: PAGEBUF[0] = 0xFF11. -/
theorem test_load_mem_lo : resultOf (.loadMemLo 0 0x11) (enabled (.chip t84on)) = some (.done (.frame 0x00400000)) ∧
    targetAfter Target.pageBuf (.loadMemLo 0 0x11) (enabled (.chip t84on)) = some [(0, 0x11)] := by
  decide +kernel

/-- TM5: the high byte of PAGEBUF[1]. -/
theorem test_load_mem_hi : socketAfter PortState.settle (.loadMemHi 1 0x44) (enabled (.chip t84on)) = some 0 ∧
    targetAfter Target.pageBuf (.loadMemHi 1 0x44) (enabled (.chip t84on)) = some [(3, 0x44)] := by
  decide +kernel

/-- V20 and P4: the page of word 0x0020 begins at word 0x0020. -/
theorem test_write_page : socketAfter PortState.settle (.writePage 0x0020) (enabled (.chip t84on)) = some 5 ∧
    targetAfter Target.pmem (.writePage 0x0021) (enabled (.chip { t84on with pageBuf := [(0, 0x11), (1, 0x22)] })) =
      some [(0x40, 0x11), (0x41, 0x22)] := by
  decide +kernel

/-- V28. -/
theorem test_focus : (after (exec (.focus .bus) (afterReset .loop .loop))).map
    (fun t => (t.focus, t.bus.rst, t.bus.clk, t.bus.dout, t.bus.mode, t.socket.rst.dir)) =
      some (some .bus, ⟨.output, .high⟩, ⟨.output, .low⟩, ⟨.output, .unspecified⟩, .idle, .input) := by
  decide +kernel

/-- V28a and V28b. -/
theorem test_focus_unfocused_lines :
    (after (exec (.focus .bus) (enabled .loop .hold))).map (fun t => t.socket.rst) = some ⟨.output, .low⟩ ∧
    (after (exec (.focus .bus) (enabled .loop .release))).map (fun t => t.socket.rst.dir) = some .input := by
  decide +kernel

/-- V26. -/
theorem test_enter_prog_mode : resultOf .enterProgMode (focused (.chip .t84)) = some (.done (.byte 0x53)) ∧
    socketAfter PortState.mode .enterProgMode (focused (.chip .t84)) = some .enableSent := by
  decide +kernel

/-- V26c: the acknowledgment is not checked. -/
theorem test_enter_prog_mode_unchecked : resultOf .enterProgMode (focused (.stuck false)) = some (.done (.byte 0x00)) := by
  decide +kernel

/-- V30. -/
theorem test_identify : resultOf (.identify .socket) (afterReset (.chip .t84) .loop) =
    some (.done (.params ⟨0x0C931E, 32, 128, 256⟩)) := by
  decide +kernel

/-- V32: signature 0x0D931E is absent. -/
theorem test_identify_absent : resultOf (.identify .socket) (afterReset (.chip { Target.t84 with sig2 := 0x0D }) .loop) =
    some ⟨.absent, none, .none⟩ := by
  decide +kernel

/-- V36a. -/
theorem test_read_params : resultOf (.readParams .socket) recorded = some (.done (.params ⟨0x0C931E, 32, 128, 256⟩)) := by
  decide +kernel

/-- V37. -/
theorem test_read_params_unidentified : faultsAfter (.readParams .bus) (afterReset .loop .loop) = some [7] := by
  decide +kernel

/-- V40. -/
theorem test_wait_ms : socketAfter PortState.settle (.waitMs 4) (enabled .loop .hold 10) = some 6 := by decide +kernel

/-- V42: it saturates. -/
theorem test_wait_ms_saturates : socketAfter PortState.settle (.waitMs 3) (enabled .loop .hold 2) = some 0 := by
  decide +kernel

/-- V58: a reserved word after reset is F_BAD_REQ, not F_NOFOCUS. -/
theorem test_step_reserved_word : (after (step (State.reset.withFetchWord 40 0x0000000021))).map
    (fun t => t.faults.map FaultCode.number) = some [1] := by
  decide +kernel

/-- V44, as the first word after reset. -/
theorem test_step_wait : (after (step (State.reset.withFetchWord 40 0xFFFFFFFF07))).map State.result =
    some (.done .none) := by
  decide +kernel

/-- 20_memory.md R56: a TRANSACT reset after two of its four bytes leaves the target's frame at two bytes and the block at its
reset values. -/
theorem test_reset_partway :
    (after (step (resetIn 98 0xC000105A02 (enabled (.chip t84on))))).map (fun t => t.socket.attached) =
      some (.chip { t84on with cnt := 2, b0 := 0xC0, tx := some 0x00 }) ∧
    (after (step (resetIn 98 0xC000105A02 (enabled (.chip t84on))))).map (fun t => (t.focus, t.socket.clk.dir)) =
      some (none, .input) := by
  decide +kernel

/-- 70_reset_and_hazards.md R230: with no word presented a reset empties FOCUS and the settle owed. -/
theorem test_reset_while_waiting : (after (step { enabled .loop .hold 4 with resets := [some 0] })).map
    (fun t => (t.focus, t.socket.settle, t.resets)) = some (none, 0, []) := by
  decide +kernel

/-! ### Witnesses: for each statement with hypotheses, states and operands that meet them -/

theorem focused_inv (a : Attached) (h : a.wf) : (focused a).Inv where
  idle := rfl
  driven := fun p hp => by cases p <;> first | rfl | cases hp
  sound := fun p => by cases p <;> rfl
  settleFocused := fun p hp => by cases p <;> cases hp
  untouched := fun p hp => by cases p <;> first | exact ⟨rfl, rfl, rfl⟩ | cases hp
  faultsForm := List.Pairwise.nil
  memories := fun p => by cases p <;> first | exact h | trivial

theorem enabled_inv (a : Attached) (u : Config.UnfocusedLines) (h : a.wf) : (enabled a u).Inv where
  idle := rfl
  driven := fun p hp => by cases p <;> first | rfl | cases hp
  sound := fun p => by cases p <;> rfl
  settleFocused := fun p hp => by cases p <;> cases hp
  untouched := fun p hp => by cases p <;> first | exact ⟨rfl, rfl, rfl⟩ | cases hp
  faultsForm := List.Pairwise.nil
  memories := fun p => by cases p <;> first | exact h | trivial

theorem enabled_ready (a : Attached) : Ready .socket (enabled a) where
  focus := rfl
  settled := fun q => by cases q <;> rfl
  aligned := rfl
  enabled := rfl

theorem focused_settled (a : Attached) : (focused a).focus = some .socket ∧ ∀ q, ((focused a).port q).settle = 0 :=
  ⟨rfl, fun q => by cases q <;> rfl⟩

theorem t84on_wf : (Attached.chip t84on).wf := by decide

theorem test_hyps_DecodeEncode : Instr.isHostOp (.waitMs 0xFFFFFFFF) = true ∧
    frameOf (.writePage 0xFFFF) = some (0x4CFFFF00 : Frame) := by decide

theorem test_hyps_EncodeDecode : decodeTableWord 32 0x4CFFFF00 = some (.writePage 0xFFFF) ∧
    decodeTableWord 40 0xFFFFFFFF07 = some (.waitMs 0xFFFFFFFF) := by decide

theorem test_hyps_OneRowPerWord : (0xFFFFFFFF : Nat) < 2 ^ 32 ∧ (0xFFFFFFFFFF : Nat) < 2 ^ 40 := by decide

/-- One reserved word for each clause of R78, presented to the block after reset. -/
theorem test_hyps_ReservedWordsRefused :
    (∀ w : HostWord, (State.reset.present w).busy = false ∧ (State.reset.present w).requests = w :: [] ∧
      (State.reset.present w).resetDue = none) ∧
    (∀ n ∈ [0x00, 0x08, 0x0F, 0xE2, 0x11, 0x12, 0x14, 0x17, 0x10001, 0x103, 0x104, 0x105, 0x106], reservedWord n) ∧
    ∀ n ∈ [0xFF01, 0x16], ¬ reservedWord n := by
  unfold reservedWord
  exact ⟨fun w => ⟨rfl, rfl, rfl⟩, by decide, by decide⟩

theorem test_hyps_PseudoInstructionsExpand : (65535 : Nat) < 65536 ∧ (255 : Nat) < 256 ∧ (65536 : Nat) ≤ 65536 ∧
    (256 ≤ 256 ∨ 65536 ≤ 0) ∧ (256 ≤ 0 ∨ 65536 ≤ 65536) := by decide

/-- A line that is read, one that expands, and the largest operand of each range with the one above it. -/
theorem test_hyps_TextRefusesOutOfRange : readLine "load_word 255, 65535".toList = some (.loadWord 255 65535) ∧
    (TextLine.reenter .bus).expand = some [.focus .bus, .enterProgMode] ∧
    Instr.enterProgMode ∈ [Instr.focus .bus, .enterProgMode] ∧
    (TextLine.exchange 255).assemble = some [0xFF01] ∧ (TextLine.exchange 256).assemble = none ∧
    (TextLine.waitMs 0xFFFFFFFF).assemble = some [0xFFFFFFFF07] ∧ (TextLine.waitMs 0x100000000).assemble = none ∧
    (TextLine.transact (.writePage 65535)).assemble = some [0x4CFFFF0002] ∧
    (TextLine.transact (.writePage 65536)).assemble = none := by
  decide +kernel

theorem test_hyps_StepRunsPresentedWord : (State.reset.present 0xAC53000002).busy = false ∧
    (State.reset.present 0xAC53000002).requests = 0xAC53000002 :: [] ∧ (State.reset.present 0xAC53000002).resetDue = none ∧
    decodeHost 0xAC53000002 = .ok (.transact 0xAC530000) ∧ (0xAC53000002 : HostWord) = transactWord 0xAC530000 ∧
    decodeFrame 0xAC530000 = .ok .progEn := by decide

theorem test_hyps_CommandIsItsTransact : frameOf (.readSig 0xFF) = some (0x3000FF00 : Frame) := by decide

theorem test_hyps_StepStopsOnlyOnHostBreach : State.reset.requests = [] ∧ State.reset.resetDue = none := ⟨rfl, rfl⟩

/-- A reset in the middle of an operation, and one while none runs. -/
theorem test_hyps_ResetState : (∃ t, step (resetIn 98 0xC000105A02 (enabled (.chip t84on))) = .next t ∧
      (resetIn 98 0xC000105A02 (enabled (.chip t84on))).resetDue ≠ none) ∧
    (∃ t, step { enabled .loop with resets := [some 0] } = .next t ∧
      ({ enabled .loop with resets := [some 0] } : State).resetDue ≠ none) :=
  ⟨⟨_, rfl, by decide⟩, ⟨_, rfl, by decide⟩⟩

theorem test_hyps_NothingReachedBeforeFocus :
    (∀ i ∈ [Instr.exchange 0, .waitMs 1], ∀ b, i ≠ .focus b ∧ i ≠ .identify b) ∧
    ∃ t, execAll [.exchange 0, .waitMs 1] (blockReset (enabled .loop)) = some t :=
  ⟨fun i hi b => by cases b <;> revert i <;> decide, _, rfl⟩

/-- A reset before the first action, in the middle and after the last. -/
theorem test_hyps_NothingReachedBeforeFocus_partway :
    (∀ k, (resetIn k 0xA501 (focused .loop)).busy = false ∧ (resetIn k 0xA501 (focused .loop)).requests = 0xA501 :: [] ∧
      (resetIn k 0xA501 (focused .loop)).resetDue = some k) ∧
    (after (perform 0xA501 { (resetIn 0 0xA501 (focused .loop)).passReset with requests := [] })).map (fun t => t.waveform.length) =
      some 49 :=
  ⟨fun _ => ⟨rfl, rfl, rfl⟩, by decide +kernel⟩

/-- A reset after m bytes of a WRITE_EE frame, the target between two frames. -/
theorem test_hyps_NothingReachedBeforeFocus_framing : ∀ m : Fin 4,
    Ready .socket (resetIn (49 * m.val) (transactWord 0xC000105A) (enabled (.chip t84on))) ∧
    (resetIn (49 * m.val) (transactWord 0xC000105A) (enabled (.chip t84on))).busy = false ∧
    (resetIn (49 * m.val) (transactWord 0xC000105A) (enabled (.chip t84on))).requests = transactWord 0xC000105A :: [] ∧
    (resetIn (49 * m.val) (transactWord 0xC000105A) (enabled (.chip t84on))).resetDue = some (49 * m.val) ∧
    decodeFrame 0xC000105A = .ok (.writeEe 0x10 0x5A) ∧
    ((resetIn (49 * m.val) (transactWord 0xC000105A) (enabled (.chip t84on))).port .socket).clk = ⟨.output, .low⟩ ∧
    ((resetIn (49 * m.val) (transactWord 0xC000105A) (enabled (.chip t84on))).port .socket).attached = .chip t84on ∧
    t84on.mode ≠ .off ∧ t84on.cnt = 0 ∧ t84on.bit = 0 ∧ t84on.rx = 0 ∧ t84on.latch = false :=
  fun _ => ⟨⟨rfl, (enabled_ready (.chip t84on)).settled, rfl, rfl⟩, rfl, rfl, rfl, by decide, rfl, rfl, by decide, rfl, rfl,
    rfl, rfl⟩

theorem test_hyps_ExchangeCompletes : (focused .loop).focus = some .socket ∧ ∀ q, ((focused .loop).port q).settle = 0 :=
  focused_settled _

/-- Each environment clause of the statement on its own state. -/
theorem test_hyps_ExchangeSamples : (∀ a, (focused a).focus = some .socket ∧ ∀ q, ((focused a).port q).settle = 0) ∧
    ((focused (.env [true])).port .socket).attached = .env [true] ∧
    ((focused (.stuck false)).port .socket).attached = .stuck false ∧
    ((focused (.stuck true)).port .socket).attached = .stuck true :=
  ⟨focused_settled, rfl, rfl, rfl⟩

theorem test_hyps_ExchangeLines : (focused .loop).Inv ∧ (focused .loop).focus = some .socket ∧
    ∀ q, ((focused .loop).port q).settle = 0 :=
  ⟨focused_inv _ trivial, focused_settled _⟩

theorem test_hyps_ExchangeIsModeZero : (focused .loop).focus = some .socket ∧
    (∀ q, ((focused .loop).port q).settle = 0) ∧ ((focused .loop).port .socket).clk = ⟨.output, .low⟩ :=
  ⟨rfl, (focused_settled _).2, rfl⟩

theorem test_hyps_ExchangeLoopback : (focused .loop).focus = some .socket ∧
    (∀ q, ((focused .loop).port q).settle = 0) ∧ ((focused .loop).port .socket).attached = .loop :=
  ⟨rfl, (focused_settled _).2, rfl⟩

/-- Three bytes more are no multiple of four, four are. -/
theorem test_hyps_RawBytesMisalign : (enabled .loop).focus = some .socket ∧
    (∀ q, ((enabled .loop).port q).settle = 0) ∧
    (((enabled .loop).port .socket).framePhase.val + [0, 0, 0].length) % 4 ≠ 0 ∧
    (((enabled .loop).port .socket).framePhase.val + [0, 0, 0, 0].length) % 4 = 0 :=
  ⟨rfl, (enabled_ready _).settled, by decide, by decide⟩

/-- For each fault a state where it applies alone, two that apply together (V59), and one where none does. -/
theorem test_hyps_FaultPriority :
    faultApplies (.exchange 0) State.reset .noFocus ∧ faultApplies (.transact 0x58000000) State.reset .unlisted ∧
    faultApplies (.focus .bus) (enabled .loop .hold 1) .settle ∧
    faultApplies (.readSig 0) (enabled .loop .hold 0 1) .misaligned ∧
    faultApplies (.transact 0x58000000) (enabled .loop) .unlisted ∧
    faultApplies (.readSig 0) (focused .loop) .notEnabled ∧
    faultApplies (.readParams .bus) State.reset .unidentified ∧ (∀ c, ¬ faultApplies (.waitMs 0) State.reset c) := by
  have hu : ∀ c, decodeFrame 0x58000000 ≠ .ok c := fun c h => by
    rw [show decodeFrame 0x58000000 = .error .unlistedFrame by decide] at h
    cases h
  refine ⟨⟨rfl, rfl⟩, ⟨_, rfl, hu⟩, ⟨rfl, .socket, by decide⟩, ⟨_, _, rfl, rfl, by decide⟩, ⟨_, rfl, hu⟩,
    ⟨_, _, .readSig 0, rfl, rfl, by decide, by decide⟩, ⟨_, rfl, rfl⟩, fun c h => ?_⟩
  cases c with
  | badReq => exact h
  | noFocus => exact absurd h.1 (by decide)
  | settle => exact absurd h.1 (by decide)
  | misaligned => obtain ⟨f, p, hf, -⟩ := h; cases hf
  | unlisted => obtain ⟨f, hf, -⟩ := h; cases hf
  | notEnabled => obtain ⟨f, p, c, hf, -⟩ := h; cases hf
  | unidentified => obtain ⟨b, hb, -⟩ := h; cases hb

/-- The other half of it: a reserved word is presented and nothing decodes from it. -/
theorem test_hyps_FaultPriority_reserved : (State.reset.present 0x21).busy = false ∧
    (State.reset.present 0x21).requests = 0x21 :: [] ∧ (State.reset.present 0x21).resetDue = none ∧
    ∀ i, decodeHost 0x21 ≠ .ok i :=
  ⟨rfl, rfl, rfl, fun i h => by rw [show decodeHost 0x21 = .error .reservedBits by decide] at h; cases h⟩

theorem test_hyps_FaultLeavesTheRest : ∃ t, exec .enterProgMode State.reset = .next t ∧ t.result.status = .fault :=
  ⟨_, rfl, rfl⟩

/-- Each clause of the statement: no focus, not identified, a settle owed (with and without the focus asked for), an unlisted
frame, a mode that forbids PROG_EN and one that forbids the rest. -/
theorem test_hyps_FaultCauses : State.reset.focus = none ∧ (State.reset.port .bus).written = false ∧
    0 < ((enabled .loop .hold 1).port .socket).settle ∧ (enabled .loop .hold 1).focus ≠ none ∧
    Ready .socket (enabled .loop) ∧ (∀ r ∈ frameRows, r.matches (0x58000000 : Frame).toNat = false) ∧
    (focused .loop).focus = some .socket ∧ (∀ q, ((focused .loop).port q).settle = 0) ∧
    ((focused .loop).port .socket).framePhase = 0 ∧ decodeFrame 0xAC530000 = .ok .progEn ∧
    decodeFrame 0x30000000 = .ok (.readSig 0) ∧ ((focused .loop).port .socket).mode ≠ .resetActive ∧
    ((focused .loop).port .socket).mode ≠ .enableSent :=
  ⟨rfl, rfl, by decide, by decide, enabled_ready _, by decide, rfl, (focused_settled _).2, rfl, by decide, by decide,
    by decide, by decide⟩

/-- A step that raises a fault, and one in which a reset lands. -/
theorem test_hyps_FaultsSticky : (∃ t, step (State.reset.present 0xA501) = .next t ∧
      (State.reset.present 0xA501).requests ≠ [] ∧ (State.reset.present 0xA501).resetDue = none) ∧
    ∃ t, step (resetIn 0 0xA501 State.reset) = .next t ∧ (resetIn 0 0xA501 State.reset).resetDue ≠ none :=
  ⟨⟨_, rfl, by decide, rfl⟩, _, rfl, by decide⟩

/-- OK with a byte, ABSENT, and FAULT. -/
theorem test_hyps_ResultForm : (∃ t, exec (.exchange 0) (focused .loop) = .next t ∧ t.result.status = .ok) ∧
    (∃ t, exec (.identify .bus) (focused .loop) = .next t ∧ t.result.status = .absent) ∧
    (∃ t, exec (.exchange 0) State.reset = .next t ∧ t.result.status = .fault) :=
  ⟨⟨_, rfl, rfl⟩, ⟨_, rfl, by decide +kernel⟩, ⟨_, rfl, rfl⟩⟩

theorem test_hyps_ReadCommandsComplete : Ready .socket (enabled .loop) := enabled_ready _
theorem test_hyps_WriteCommandsComplete : Ready .socket (enabled .loop) := enabled_ready _
theorem test_hyps_LoadCommandsComplete : Ready .socket (enabled .loop) := enabled_ready _

theorem test_hyps_ProgEnCompletes : (enabled .loop).focus = some .socket ∧ (∀ q, ((enabled .loop).port q).settle = 0) ∧
    ((enabled .loop).port .socket).framePhase = 0 ∧ ((enabled .loop).port .socket).mode = .enableSent :=
  ⟨rfl, (enabled_ready _).settled, rfl, rfl⟩

/-- A write command and PROG_EN. -/
theorem test_hyps_TransactCompletes : Ready .socket (enabled .loop) ∧ decodeFrame 0xC000105A = .ok (.writeEe 0x10 0x5A) ∧
    modeOk (.writeEe 0x10 0x5A) ((enabled .loop).port .socket).mode = true ∧ decodeFrame 0xAC530000 = .ok .progEn ∧
    modeOk .progEn ((enabled .loop).port .socket).mode = true ∧ modeOk .progEn .resetActive = true :=
  ⟨enabled_ready _, by decide, by decide, by decide, by decide, by decide⟩

theorem test_hyps_TransactReceives : (∀ a, Ready .socket (enabled a)) ∧ decodeFrame 0x30000100 = .ok (.readSig 1) ∧
    modeOk (.readSig 1) ((enabled .loop).port .socket).mode = true ∧
    ((enabled (.env (frameBits 0x00300093 ++ [true]))).port .socket).attached = .env (frameBits 0x00300093 ++ [true]) ∧
    ((enabled .loop).port .socket).attached = .loop ∧ ((enabled (.stuck false)).port .socket).attached = .stuck false ∧
    ((enabled (.stuck true)).port .socket).attached = .stuck true :=
  ⟨enabled_ready, by decide, by decide, rfl, rfl, rfl, rfl⟩

/-- A mode that allows and one that forbids. -/
theorem test_hyps_ModeRule : Ready .socket (enabled .loop) ∧ modeOk .progEn ((enabled .loop).port .socket).mode = true ∧
    (focused .loop).focus = some .socket ∧ (∀ q, ((focused .loop).port q).settle = 0) ∧
    ((focused .loop).port .socket).framePhase = 0 ∧ decodeFrame 0xAC530000 = .ok .progEn ∧
    modeOk .progEn ((focused .loop).port .socket).mode = false :=
  ⟨enabled_ready _, by decide, rfl, (focused_settled _).2, rfl, by decide, by decide⟩

theorem test_hyps_SettleRule : Ready .socket (enabled .loop) ∧ frameOf .chipErase = some (0xAC800000 : Frame) :=
  ⟨enabled_ready _, by decide⟩

/-- One step that lowers a settle and one that raises it. -/
theorem test_hyps_SettleChanges :
    (∃ t, exec (.waitMs 1) (enabled .loop .hold 4) = .next t ∧
      (t.port .socket).settle < ((enabled .loop .hold 4).port .socket).settle) ∧
    (∃ t, exec .chipErase (enabled .loop) = .next t ∧
      ((enabled .loop).port .socket).settle < (t.port .socket).settle) :=
  ⟨⟨_, rfl, by decide +kernel⟩, ⟨_, rfl, by decide +kernel⟩⟩

/-- Waits that just reach the settle, and waits that fall one short. -/
theorem test_hyps_SettlePaidOff :
    (∀ q, ((enabled .loop .hold 4).port q).settle ≤ (([2, 2] : List (BitVec 32)).map BitVec.toNat).sum) ∧
    (∃ q, (([2, 1] : List (BitVec 32)).map BitVec.toNat).sum < ((enabled .loop .hold 4).port q).settle) :=
  ⟨fun q => by cases q <;> decide, .socket, by decide⟩

theorem test_hyps_FocusCompletes : ∀ q, (State.reset.port q).settle = 0 := fun q => by cases q <;> rfl

theorem test_hyps_FocusEndsProgMode : (∀ q, ((enabled (.chip t84on)).port q).settle = 0) ∧
    ((enabled (.chip t84on)).port .socket).attached = .chip t84on ∧ decodeFrame 0x30000000 = .ok (.readSig 0) :=
  ⟨(enabled_ready _).settled, rfl, by decide⟩

theorem test_hyps_EnterCompletes : (focused .loop).focus = some .socket ∧ ∀ q, ((focused .loop).port q).settle = 0 :=
  focused_settled _

theorem test_hyps_AcknowledgmentUnchecked :
    (focused (.env (frameBits 0x12345678 ++ [true]))).focus = some .socket ∧
    (∀ q, ((focused (.env (frameBits 0x12345678 ++ [true]))).port q).settle = 0) ∧
    ((focused (.env (frameBits 0x12345678 ++ [true]))).port .socket).attached = .env (frameBits 0x12345678 ++ [true]) :=
  ⟨rfl, (focused_settled _).2, rfl⟩

/-- FOCUS bus away from SOCKET under HOLD and under RELEASE, and an operation on the other port. -/
theorem test_hyps_UnfocusedLinesKeep : (∀ u, (enabled .loop u).Inv) ∧
    (∃ t, exec (.focus .bus) (enabled .loop .hold) = .next t ∧ t.focus ≠ some .socket ∧
      (enabled .loop .hold).params.unfocusedLines = .hold) ∧
    (∃ t, exec (.focus .bus) (enabled .loop .release) = .next t ∧ t.focus ≠ some .socket ∧
      (enabled .loop .release).params.unfocusedLines = .release ∧ (enabled .loop .release).focus = some .socket) ∧
    (∃ t, exec (.exchange 0) (enabled .loop .release) = .next t ∧ t.focus ≠ some .bus ∧
      (enabled .loop .release).focus ≠ some .bus) :=
  ⟨fun u => enabled_inv _ u trivial, ⟨_, rfl, by decide +kernel, rfl⟩, ⟨_, rfl, by decide +kernel, rfl, rfl⟩,
    ⟨_, rfl, by decide +kernel, by decide⟩⟩

/-- A frame on the other port, and a wait that lowers the settle of a port that is not focused. -/
theorem test_hyps_UnfocusedTargetSeesNothing :
    (∃ t, exec (.readSig 0) (enabled .loop) = .next t ∧ t.focus ≠ some .bus) ∧
    (∃ t, exec (.waitMs 1) (enabled .loop) = .next t ∧ t.focus ≠ some .bus) :=
  ⟨⟨_, rfl, by decide +kernel⟩, ⟨_, rfl, by decide +kernel⟩⟩

theorem test_hyps_OnePortAtATime : ∃ t, exec (.focus .bus) (enabled .loop .release) = .next t ∧
    LineEvent.release ⟨.socket, .rst⟩ ∈ t.waveform ∧ LineEvent.drive ⟨.bus, .rst⟩ .high ∈ t.waveform :=
  ⟨_, rfl, by decide +kernel, by decide +kernel⟩

/-- An operation that is no fault, and a misaligned port. -/
theorem test_hyps_FramePhaseRule : (∃ t, exec (.exchange 0) (enabled .loop .hold 0 3) = .next t ∧
      t.result.status ≠ .fault) ∧
    (enabled .loop .hold 0 3).focus = some .socket ∧ (∀ q, ((enabled .loop .hold 0 3).port q).settle = 0) ∧
    ((enabled .loop .hold 0 3).port .socket).framePhase ≠ 0 :=
  ⟨⟨_, rfl, by decide +kernel⟩, rfl, fun q => by cases q <;> rfl, by decide⟩

theorem test_hyps_PortModeRule : ∃ t, exec .enterProgMode (focused .loop) = .next t ∧ t.result.status ≠ .fault :=
  ⟨_, rfl, by decide +kernel⟩

theorem test_hyps_LookupExact : (0x0C931F : Sig) ≠ 0x0C931E ∧ (0x0C931F : Sig) ≠ 0x07921E := by decide

theorem test_hyps_IdentifyCompletes : ∀ q, (State.reset.port q).settle = 0 := fun q => by cases q <;> rfl

/-- Frames that spell row 0's signature, then frames one bit away from it. -/
theorem test_hyps_IdentificationExact : (∀ a, ∀ q, ((focused a).port q).settle = 0) ∧
    (∀ l, ((focused (.env l)).port .socket).attached = .env l) ∧
    (⟨0x0C931E, 32, 128, 256⟩ : Config.DeviceParams) ∈ Config.sigTab ∧
    sigOf ((0x0030001E : Frame).extractLsb' 0 8) ((0x00300093 : Frame).extractLsb' 0 8)
      ((0x0030000C : Frame).extractLsb' 0 8) = 0x0C931E ∧
    (∀ row ∈ Config.sigTab, row.sig ≠ sigOf ((0x0030001E : Frame).extractLsb' 0 8) ((0x00300093 : Frame).extractLsb' 0 8)
      ((0x0030000D : Frame).extractLsb' 0 8)) :=
  ⟨fun a => (focused_settled a).2, fun _ => rfl, by decide, by decide, by decide⟩

/-- Two runs from different states with different echoes and the same three bytes. -/
theorem test_hyps_IdentifierIsPure :
    ∃ t t', exec (.identify .socket) (focused (.chip .t84)) = .next t ∧
      exec (.identify .socket) (enabled (.chip { Target.t84 with fuseLo := 1 })) = .next t' ∧
      t.result.status ≠ .fault ∧ t'.result.status ≠ .fault ∧
      receivedByte .socket t.waveform 7 = receivedByte .socket t'.waveform 7 ∧
      receivedByte .socket t.waveform 11 = receivedByte .socket t'.waveform 11 ∧
      receivedByte .socket t.waveform 15 = receivedByte .socket t'.waveform 15 ∧
      ((focused (.chip .t84)).port .socket).chip =
        ((enabled (.chip { Target.t84 with fuseLo := 1 })).port .socket).chip :=
  ⟨_, _, rfl, rfl, by decide +kernel, by decide +kernel, by decide +kernel, by decide +kernel, by decide +kernel, rfl⟩

/-- A match, and no match. -/
theorem test_hyps_IdentifyWritesRecord :
    (∃ t, exec (.identify .socket) (focused (.chip .t84)) = .next t ∧ t.result.status = .ok) ∧
    (∃ t, exec (.identify .socket) (focused .loop) = .next t ∧ t.result.status ≠ .ok) :=
  ⟨⟨_, rfl, by decide +kernel⟩, ⟨_, rfl, by decide +kernel⟩⟩

/-- A record that stays written, and one that changes. -/
theorem test_hyps_RecordWrittenOnlyByIdentify :
    (∃ t, exec (.waitMs 0) recorded = .next t ∧ (recorded.port .socket).written = true) ∧
    (∃ t, exec (.identify .socket) (focused (.chip .t84)) = .next t ∧
      (t.port .socket).written ≠ ((focused (.chip .t84)).port .socket).written) :=
  ⟨⟨_, rfl, rfl⟩, ⟨_, rfl, by decide +kernel⟩⟩

theorem test_hyps_ReadParamsCompletes : (recorded.port .socket).written = true ∧ (recorded.port .bus).written = false :=
  ⟨rfl, rfl⟩

theorem test_hyps_ParametersPersist :
    ∃ t u, exec (.identify .socket) (focused (.chip .t84)) = .next t ∧ t.result.status = .ok ∧
      (∀ i ∈ [Instr.waitMs 0], i ≠ .identify .socket) ∧ execAll [.waitMs 0] t = some u :=
  ⟨_, _, rfl, by decide +kernel, by decide, rfl⟩

/-- A fault, and an operation that runs and puts bits on the wire. -/
theorem test_hyps_WireLengths : (∃ t, exec (.exchange 0) State.reset = .next t ∧ t.result.status = .fault) ∧
    (∃ t, exec (.exchange 0) (focused .loop) = .next t ∧ t.result.status ≠ .fault) ∧ wireLength (.exchange 0) ≠ 0 :=
  ⟨⟨_, rfl, rfl⟩, ⟨_, rfl, by decide +kernel⟩, by decide⟩

theorem test_hyps_ResetMeetsInv : (enabled (.chip t84on)).Inv := enabled_inv _ _ t84on_wf

theorem test_hyps_StepKeepsInv : (focused .loop).Inv ∧ ∃ t, step { focused .loop with requests := [0xA501] } = .next t ∧
    State.Inv { focused .loop with requests := [0xA501] } :=
  ⟨focused_inv _ trivial, _, rfl,
    { idle := rfl
      driven := (focused_inv .loop trivial).driven
      sound := (focused_inv .loop trivial).sound
      settleFocused := (focused_inv .loop trivial).settleFocused
      untouched := (focused_inv .loop trivial).untouched
      faultsForm := List.Pairwise.nil
      memories := (focused_inv .loop trivial).memories }⟩

/-- In PROG and in SYNC. -/
theorem test_hyps_ReferenceTargetEchoes : (∀ a, Ready .socket (enabled a)) ∧ decodeFrame 0x30000000 = .ok (.readSig 0) ∧
    (∀ a, ((enabled a).port .socket).clk = ⟨.output, .low⟩) ∧
    (∀ g, ((enabled (.chip g)).port .socket).attached = .chip g) ∧
    (∀ g ∈ [t84on, { t84on with mode := .sync }], g.mode ≠ .off ∧ g.cnt = 0 ∧ g.bit = 0 ∧ g.rx = 0 ∧ g.latch = false ∧
      g.tx = some 0) :=
  ⟨enabled_ready, by decide, fun _ => rfl, fun _ => rfl, by decide⟩

/-- A signature of the table, and one that is in no row. -/
theorem test_hyps_ReferenceTargetIdentified : (∀ a, ∀ q, ((focused a).port q).settle = 0) ∧
    (∀ g, ((focused (.chip g)).port .socket).attached = .chip g ∧
      ((focused (.chip g)).port .socket).clk ≠ ⟨.output, .high⟩) ∧
    lookup (sigOf Target.t44.sig0 Target.t44.sig1 Target.t44.sig2) = some ⟨0x07921E, 32, 64, 256⟩ ∧
    lookup (sigOf 0x1E 0x93 0x0D) = none :=
  ⟨fun a => (focused_settled a).2, fun g => ⟨rfl, fun h => absurd (congrArg LineState.lvl h) (show Level.low ≠ .high by decide)⟩,
    by decide, by decide⟩

theorem test_hyps_ReferenceEepromReadsBack : (enabled (.chip t84on)).Inv ∧ Ready .socket (enabled (.chip t84on)) ∧
    ((enabled (.chip t84on)).port .socket).attached = .chip t84on ∧ t84on.mode = .prog ∧ t84on.cnt = 0 ∧ t84on.bit = 0 ∧
    t84on.rx = 0 ∧ t84on.latch = false ∧ t84on.tx = some 0 ∧
    (enabled (.chip t84on)).params.settleEeWriteMs ≤ (4 : BitVec 32).toNat :=
  ⟨enabled_inv _ _ t84on_wf, enabled_ready _, rfl, rfl, rfl, rfl, rfl, rfl, rfl, by decide⟩

end Sys2Proof.Tests
end

section
/-! SUPPORT. What each instruction does, in the spec's own frames (`Exchanged`, `Sent`, `Focused` and so on): each body once,
and then `Effect`, the inversion of `exec` that later proofs split on. -/

namespace Sys2Proof.Machine

/-! ### Each body meets its frame -/

theorem State.raise_faulted (c : FaultCode) (s : State) : Faulted c s (s.raise c) where
  result := rfl
  faults d := mem_addFault c d s.faults
  idle := rfl
  wave := rfl
  focus := rfl
  ports := by simp
  params := rfl
  requests := rfl
  resets := rfl

theorem exchangeRun_exchanged (p : Port) (out : Byte) (s : State) :
    Exchanged p out ((s.start .exchange).byteIn p out) s (exchangeRun p out s) where
  idle := rfl
  faults := by simp [exchangeRun, (State.shift8_kept _ p out).faults]
  params := by simp [exchangeRun, (State.shift8_kept _ p out).params]
  requests := by simp [exchangeRun, (State.shift8_kept _ p out).requests]
  resets := by simp [exchangeRun, (State.shift8_kept _ p out).resets]
  result := by simp [exchangeRun, State.byteIn]
  wave := by simp [exchangeRun, State.waveform, State.shift8_wave]
  focus := by simp [exchangeRun, (State.shift8_kept _ p out).focus]
  other := by simp [exchangeRun, (State.shift8_kept _ p out).other]
  rst := by simp [exchangeRun, (State.shift8_kept _ p out).rst]
  clk := by simp [exchangeRun, State.shift8_clk]
  dout := by simp [exchangeRun, State.shift8_dout]
  din := by simp [exchangeRun, (State.shift8_kept _ p out).din]
  chip := by simp [exchangeRun, (State.shift8_kept _ p out).chip]
  written := by simp [exchangeRun, (State.shift8_kept _ p out).written]
  mode := by simp [exchangeRun, (State.shift8_kept _ p out).mode]
  framePhase := by simp [exchangeRun, (State.shift8_kept _ p out).framePhase]
  settle := by simp [exchangeRun, (State.shift8_kept _ p out).settle]

/-- The last bit of a frame on the wire is its bit 0. -/
theorem frameB3_getLsbD_zero (f : Frame) : (frameB3 f).getLsbD 0 = f.getLsbD 0 := by
  rw [frameB3, BitVec.getLsbD_extractLsb']
  rfl

theorem transactRun_sent (p : Port) (c : Instr) (f : Frame) (s : State) :
    Sent p f ((s.start .transact).frameIn p f) (if c = .progEn then .enableSent else (s.port p).mode) (settleOf s.params c) s
      (transactRun p c f s) where
  idle := rfl
  faults := by simp [transactRun]
  params := by simp [transactRun]
  requests := by simp [transactRun]
  resets := by simp [transactRun]
  result := by simp [transactRun]
  wave := by simp [transactRun, State.waveform]
  focus := by simp [transactRun]
  other := by simp [transactRun]
  rst := by simp [transactRun]
  clk := by simp [transactRun]
  dout := by simp only [transactRun, State.complete_port, State.sendCommand_port_dout, frameB3_getLsbD_zero]
  din := by simp [transactRun]
  chip := by simp [transactRun]
  written := by simp [transactRun]
  mode := by simp [transactRun]
  framePhase := by simp [transactRun]
  settle := by simp [transactRun]

@[simp] theorem releasePort_port (q : Port) (s : State) : (releasePort q s).port q = (s.port q).released := by cases q <;> rfl

/-- The other port after FOCUS, in the form the statements use. -/
theorem focusBody_other (b : Port) (s : State) : (focusBody b s).port b.other = otherAfterFocus b s := by
  rw [otherAfterFocus]
  split
  · next h =>
    rcases focusBody_cases b s with ⟨-, hn | hn | hn⟩ | ⟨hb, -⟩
    · exact absurd h.1 (by simp [hn])
    · exact absurd h.1 (by simp [hn])
    · exact absurd h.2 (by simp [hn])
    · rw [hb, bindPort_other, releasePort_port]
  · next h =>
    refine focusBody_other_held b s ?_
    cases hu : s.params.unfocusedLines with
    | hold => exact .inr rfl
    | release => exact .inl fun hf => h ⟨hf, hu⟩

theorem focusRun_focused (b : Port) (s : State) : Focused b s (focusRun b s) where
  idle := rfl
  faults := by simp [focusRun]
  params := by simp [focusRun]
  requests := by simp [focusRun]
  resets := by simp [focusRun]
  result := rfl
  wave := by simp [focusRun, State.waveform, focusBody_wave]
  focus := by simp [focusRun]
  other := by rw [focusRun, State.complete_port, focusBody_other]; rfl
  rst := by simp [focusRun]
  clk := by simp [focusRun]
  dout := by simp [focusRun]
  din := by simp [focusRun]
  chip := by simp [focusRun]
  written := by simp [focusRun]
  mode := by simp [focusRun]
  framePhase := by simp [focusRun]
  settle := by simp [focusRun]

theorem progEnFrame_eq : progEnFrame = 0xAC530000 := by decide

/-- The frame ENTER_PROG_MODE receives on port p from state s on. -/
def enterAnswer (p : Port) (s : State) : Frame := ((strobe p s).setPhase .enable).frameIn p progEnFrame

@[simp] theorem enterBody_received (p : Port) (s : State) : (enterBody p s).received = enterAnswer p s := by
  simp [enterBody, enterAnswer]

@[simp] theorem enterBody_wave (p : Port) (s : State) : (enterBody p s).wave =
    (strobeWave p s.params ++ frameWave p s.params.tHalfUs 0xAC530000 (enterAnswer p s)).reverse ++ s.wave := by
  simp [enterBody, enterAnswer, progEnFrame_eq]

theorem enterRun_entered (p : Port) (s : State) : Entered p (enterAnswer p (s.start .enterProgMode)) s (enterRun p s) where
  idle := rfl
  faults := by simp [enterRun]
  params := by simp [enterRun]
  requests := by simp [enterRun]
  resets := by simp [enterRun]
  result := by simp [enterRun, frameB2]
  wave := by simp [enterRun, State.waveform]
  focus := by simp [enterRun]
  other := by simp [enterRun]
  rst := by simp [enterRun]
  clk := by simp [enterRun]
  dout := by simp [enterRun]
  din := by simp [enterRun]
  chip := by simp [enterRun]
  written := by simp [enterRun]
  mode := by simp [enterRun]
  framePhase := by simp [enterRun]
  settle := by simp [enterRun]

/-- The frame one READ_SIG of IDENTIFY receives. -/
def readSigAnswer (b : Port) (n : Fin 3) (s : State) : Frame :=
  (s.setPhase (.sig n)).frameIn b (readSigFrame (BitVec.ofNat 8 n.val))

@[simp] theorem readSigBody_received (b : Port) (n : Fin 3) (s : State) : (readSigBody b n s).received = readSigAnswer b n s := by
  simp [readSigBody, readSigAnswer]

@[simp] theorem readSigBody_wave (b : Port) (n : Fin 3) (s : State) : (readSigBody b n s).wave =
    (frameWave b s.params.tHalfUs (readSigFrame (BitVec.ofNat 8 n.val)) (readSigAnswer b n s)).reverse ++ s.wave := by
  simp [readSigBody, readSigAnswer]

/-- IDENTIFY after its FOCUS and before its strobe (43_identifier.md R190). -/
def identifyFocused (b : Port) (s : State) : State := (focusBody b ((s.start .identify).setPhase .focusing)).setPhase .entering

/-- IDENTIFY once k of its READ_SIG frames have gone (43_identifier.md R190). -/
def identifyAfter (b : Port) (s : State) : Nat → State
  | 0 => enterBody b (identifyFocused b s)
  | k + 1 => readSigBody b (Fin.ofNat 3 k) (identifyAfter b s k)

/-- The frame IDENTIFY receives for READ_SIG k. -/
def identifyAnswer (b : Port) (s : State) (k : Fin 3) : Frame := readSigAnswer b k (identifyAfter b s k.val)

/-- What IDENTIFY looks up. -/
def identifyFound (b : Port) (s : State) : Option Config.DeviceParams :=
  lookup (assembleSig (frameB3 (identifyAnswer b s 0)) (frameB3 (identifyAnswer b s 1)) (frameB3 (identifyAnswer b s 2)))

theorem identifyAfter_params (b : Port) (s : State) (k : Nat) : (identifyAfter b s k).params = s.params := by
  induction k with
  | zero => simp [identifyAfter, identifyFocused]
  | succ k ih => rw [identifyAfter, readSigBody_params, ih]

theorem identifyAfter_wave (b : Port) (s : State) (k : Fin 3) : (identifyAfter b s (k.val + 1)).wave =
    (frameWave b s.params.tHalfUs (readSigFrame (BitVec.ofNat 8 k.val)) (identifyAnswer b s k)).reverse ++
      (identifyAfter b s k.val).wave := by
  rw [identifyAfter, Fin.ofNat_val_eq_self, readSigBody_wave, identifyAfter_params, identifyAnswer]

theorem identifyRun_eq (b : Port) (s : State) :
    identifyRun b s = identifyEnd b (identifyFound b s) (identifyAfter b s 3) := by
  simp only [identifyFound, identifyAnswer, ← readSigBody_received]
  rfl

theorem identifyRun_identified (b : Port) (s : State) :
    Identified b (enterAnswer b (identifyFocused b s)) (identifyAnswer b s 0) (identifyAnswer b s 1) (identifyAnswer b s 2)
      (identifyFound b s) s (identifyRun b s) where
  idle := rfl
  faults := by simp [identifyRun_eq, identifyEnd, identifyAfter, identifyFocused]
  params := by simp [identifyRun_eq, identifyEnd, identifyAfter, identifyFocused]
  requests := by simp [identifyRun_eq, identifyEnd, identifyAfter, identifyFocused]
  resets := by simp [identifyRun_eq, identifyEnd, identifyAfter, identifyFocused]
  result := by rw [identifyRun_eq]; cases identifyFound b s <;> rfl
  wave := by
    have w0 : (identifyAfter b s 0).wave = (focusWave b s.focus s.params ++ strobeWave b s.params ++
        frameWave b s.params.tHalfUs 0xAC530000 (enterAnswer b (identifyFocused b s))).reverse := by
      simp [identifyAfter, identifyFocused, focusBody_wave]
    have w1 : (identifyAfter b s 1).wave =
        (frameWave b s.params.tHalfUs 0x30000000 (identifyAnswer b s 0)).reverse ++ (identifyAfter b s 0).wave :=
      identifyAfter_wave b s 0
    have w2 : (identifyAfter b s 2).wave =
        (frameWave b s.params.tHalfUs 0x30000100 (identifyAnswer b s 1)).reverse ++ (identifyAfter b s 1).wave :=
      identifyAfter_wave b s 1
    have w3 : (identifyAfter b s 3).wave =
        (frameWave b s.params.tHalfUs 0x30000200 (identifyAnswer b s 2)).reverse ++ (identifyAfter b s 2).wave :=
      identifyAfter_wave b s 2
    simp [identifyRun_eq, identifyEnd, State.waveform, w3, w2, w1, w0]
  focus := by simp [identifyRun_eq, identifyEnd, identifyAfter, identifyFocused]
  other := by
    simp only [identifyRun_eq, identifyEnd, identifyAfter, identifyFocused, State.finish_port, State.port_setPort_other,
      readSigBody_other, enterBody_other, State.setPhase_port, focusBody_other]
    rfl
  rst := by simp [identifyRun_eq, identifyEnd, identifyAfter]
  clk := by simp [identifyRun_eq, identifyEnd, identifyAfter]
  dout := by simp [identifyRun_eq, identifyEnd, identifyAfter]
  din := by simp [identifyRun_eq, identifyEnd, identifyAfter, identifyFocused]
  chip := by simp [identifyRun_eq, identifyEnd, identifyAfter, identifyFocused]
  written := by simp [identifyRun_eq, identifyEnd, identifyAfter, identifyFocused]
  mode := by simp [identifyRun_eq, identifyEnd, identifyAfter]
  framePhase := by simp [identifyRun_eq, identifyEnd, identifyAfter]
  settle := by simp [identifyRun_eq, identifyEnd, identifyAfter]

theorem paramsRun_read (b : Port) (s : State) : ParamsRead b s (paramsRun b s) where
  idle := rfl
  faults := rfl
  params := rfl
  requests := rfl
  resets := rfl
  result := rfl
  wave := rfl
  focus := rfl
  ports := by simp [paramsRun]

theorem waitRun_port (n : BitVec 32) (s : State) (q : Port) : (waitRun n s).port q = (s.port q).wait n.toNat := by
  cases q <;> rfl

theorem waitRun_waited (n : BitVec 32) (s : State) : Waited n s (waitRun n s) where
  idle := rfl
  faults := rfl
  params := rfl
  requests := rfl
  resets := rfl
  result := rfl
  wave := rfl
  focus := rfl
  ports q := by rw [waitRun_port]; rfl
  settle q := by simp only [waitRun_port, PortState.wait]; omega

/-! ### What `exec` can do -/

/-- What instruction i does from s to t: it raises one fault, or it runs in full, in the frame of its kind. The premises of a
run are the checks it passed. -/
inductive Effect (i : Instr) (s t : State) : Prop where
  | raised (c : FaultCode) (run : t = s.raise c)
  | sent (p : Port) (c : Instr) (f r : Frame) (kind : frameSent i = some f) (focus : s.focus = some p)
      (settled : ∀ q, (s.port q).settle = 0) (aligned : (s.port p).framePhase = 0) (listed : decodeFrame f = .ok c)
      (enabled : modeOk c (s.port p).mode = true)
      (run : Sent p f r (if c = .progEn then .enableSent else (s.port p).mode) (settleOf s.params c) s t)
  | exchanged (p : Port) (out inp : Byte) (kind : i = .exchange out) (focus : s.focus = some p)
      (settled : ∀ q, (s.port q).settle = 0) (run : Exchanged p out inp s t)
  | focused (b : Port) (kind : i = .focus b) (settled : ∀ q, (s.port q).settle = 0) (run : Focused b s t)
  | entered (p : Port) (r : Frame) (kind : i = .enterProgMode) (focus : s.focus = some p)
      (settled : ∀ q, (s.port q).settle = 0) (run : Entered p r s t)
  | identified (b : Port) (r0 r1 r2 r3 : Frame) (kind : i = .identify b) (settled : ∀ q, (s.port q).settle = 0)
      (run : Identified b r0 r1 r2 r3 (lookup (assembleSig (frameB3 r1) (frameB3 r2) (frameB3 r3))) s t)
  | paramsRead (b : Port) (kind : i = .readParams b) (written : (s.port b).written = true) (run : ParamsRead b s t)
  | waited (n : BitVec 32) (kind : i = .waitMs n) (run : Waited n s t)

theorem frameSent_of_kind {i : Instr} {f : Frame} (h : i = .transact f ∨ frameOf i = some f) : frameSent i = some f := by
  rcases h with rfl | h
  · rfl
  · cases i with
    | transact g => cases h
    | _ => exact h

/-- What an instruction does is one of the frames. -/
theorem exec_effect {i : Instr} {s t : State} (h : exec i s = .next t) : Effect i s t := by
  rcases exec_cases i s with ⟨c, e⟩ | ⟨p, c, f, hp, hs, hz, hd, hm, hi, e⟩ | ⟨p, out, hi, hp, hs, e⟩ | ⟨b, hi, hs, e⟩ |
    ⟨p, hi, hp, hs, e⟩ | ⟨b, hi, hs, e⟩ | ⟨b, hi, hw, e⟩ | ⟨n, hi, e⟩ <;>
    obtain rfl := Host.Outcome.next.inj (h.symm.trans e)
  · exact .raised c rfl
  · exact .sent p c f _ (frameSent_of_kind hi) hp hs hz hd hm (transactRun_sent p c f s)
  · exact .exchanged p out _ hi hp hs (exchangeRun_exchanged p out s)
  · exact .focused b hi hs (focusRun_focused b s)
  · exact .entered p _ hi hp hs (enterRun_entered p s)
  · exact .identified b _ _ _ _ hi hs (identifyRun_identified b s)
  · exact .paramsRead b hi hw (paramsRun_read b s)
  · exact .waited n hi (waitRun_waited n s)

/-- A presented word is refused, or it is an instruction and is performed. -/
theorem perform_next_cases {w : HostWord} {s t : State} (h : perform w s = .next t) :
    t = s.raise .badReq ∨ ∃ i, exec i s = .next t := by
  cases hd : decodeHost w with
  | error e =>
    rw [perform, hd] at h
    exact .inl (Host.Outcome.next.inj h).symm
  | ok i => exact .inr ⟨i, (perform_ok hd s).symm.trans h⟩

/-- What one step does: it waits, is reset while it waits, performs a word, or is reset partway through one. -/
theorem step_cases {s t : State} (h : step s = .next t) :
    (s.requests = [] ∧ s.resetDue = none ∧ t = s.passReset) ∨
    (s.requests = [] ∧ s.resetDue ≠ none ∧ t = blockReset s.passReset) ∨
    (∃ w rest, s.requests = w :: rest ∧ s.busy = false ∧ s.resetDue = none ∧
      perform w { s.passReset with requests := rest } = .next t) ∨
    (∃ w rest k, s.requests = w :: rest ∧ s.busy = false ∧ s.resetDue = some k ∧
      t = resetPartway k w { s.passReset with requests := rest }) := by
  cases hr : s.requests with
  | nil =>
    obtain rfl := Host.Outcome.next.inj ((step_wait hr).symm.trans h)
    cases hk : s.resetDue with
    | none => exact .inl ⟨rfl, rfl, by simp [waitForWord, hk]⟩
    | some k => exact .inr (.inl ⟨rfl, by simp, by simp [waitForWord, hk]⟩)
  | cons w rest =>
    cases hb : s.busy with
    | true => simp [step, takeRequest, hr, hb] at h
    | false =>
      cases hk : s.resetDue with
      | none => exact .inr (.inr (.inl ⟨w, rest, rfl, rfl, rfl, (step_perform hb hr hk).symm.trans h⟩))
      | some k =>
        exact .inr (.inr (.inr ⟨w, rest, k, rfl, rfl, rfl, Host.Outcome.next.inj (h.symm.trans (step_reset hb hr hk))⟩))

end Sys2Proof.Machine
end

section
/-! SUPPORT. The invariant of the machine (10_state.md R25, R27, R33, R35, R37), part by part: every operation keeps it, a reset
establishes it, and so every step keeps it. -/

namespace Sys2Proof.Machine

/-! ### The checks of the invariant, as propositions -/

theorem PortState.driven_iff (v : PortState) : v.driven = true ↔ v.rst.dir = .output ∧ v.clk = ⟨.output, .low⟩ ∧
    v.dout.dir = .output ∧ ((v.mode = .idle ∧ v.rst.lvl = .high) ∨ (v.mode = .enableSent ∧ v.rst.lvl = .low)) := by
  rw [PortState.driven]
  cases v.mode <;> simp [and_assoc]

theorem PortState.sound_iff (v : PortState) : v.sound = true ↔ v.din.dir = .input ∧ v.mode ≠ .resetActive ∧
    (v.written = true → v.chip ∈ Config.sigTab) ∧ (v.settle = 0 ∨ (v.framePhase = 0 ∧ v.mode = .enableSent)) := by
  simp [PortState.sound, and_assoc, imp_iff_not_or]

/-- A statement about both ports is one about a port and the other. -/
theorem forall_port {P : Port → Prop} (p : Port) (h : P p) (ho : P p.other) : ∀ q, P q := by
  intro q
  by_cases hq : q = p
  · rwa [hq]
  · rwa [eq_other_of_ne p q hq]

theorem modeOk_iff (c : Instr) (m : PortMode) :
    modeOk c m = true ↔ m = .enableSent ∨ (c = .progEn ∧ m = .resetActive) := by
  rw [modeOk]
  split
  · cases m <;> simp [*]
  · simp [*]

/-- A command that was sent leaves its port in ENABLE_SENT. -/
theorem mode_after_command {c : Instr} {m : PortMode} (h : modeOk c m = true) :
    (if c = .progEn then .enableSent else m) = PortMode.enableSent := by
  split
  · rfl
  · rename_i hc
    exact ((modeOk_iff c m).mp h).resolve_right fun k => hc k.1

/-- Every row LOOKUP finds stands in SIGTAB. -/
theorem mem_sigTab_of_lookup {sig : Sig} {row : Config.DeviceParams} (h : lookup sig = some row) : row ∈ Config.sigTab :=
  List.mem_of_find?_eq_some h

/-! ### The other port after FOCUS -/

theorem otherAfterFocus_cases (b : Port) (s : State) : otherAfterFocus b s = s.port b.other ∨
    (s.focus = some b.other ∧ s.params.unfocusedLines = .release ∧ otherAfterFocus b s = (s.port b.other).released) := by
  rw [otherAfterFocus]
  split
  · next h => exact .inr ⟨h.1, h.2, rfl⟩
  · exact .inl rfl

theorem otherAfterFocus_sound (b : Port) (s : State) : (otherAfterFocus b s).sound = (s.port b.other).sound := by
  rw [otherAfterFocus]; split <;> rfl
@[simp] theorem otherAfterFocus_chip (b : Port) (s : State) : (otherAfterFocus b s).chip = (s.port b.other).chip := by
  rw [otherAfterFocus]; split <;> rfl
@[simp] theorem otherAfterFocus_written (b : Port) (s : State) : (otherAfterFocus b s).written = (s.port b.other).written := by
  rw [otherAfterFocus]; split <;> rfl
@[simp] theorem otherAfterFocus_mode (b : Port) (s : State) : (otherAfterFocus b s).mode = (s.port b.other).mode := by
  rw [otherAfterFocus]; split <;> rfl
@[simp] theorem otherAfterFocus_framePhase (b : Port) (s : State) :
    (otherAfterFocus b s).framePhase = (s.port b.other).framePhase := by
  rw [otherAfterFocus]; split <;> rfl
@[simp] theorem otherAfterFocus_settle (b : Port) (s : State) : (otherAfterFocus b s).settle = (s.port b.other).settle := by
  rw [otherAfterFocus]; split <;> rfl

/-! ### Each part, kept by an operation -/

/-- What completes reports no fault (30_encoding.md R79). -/
theorem Result.done_ne_failed (v : Value) : ∀ c, Result.done v ≠ .failed c := nofun

section
variable {i : Instr} {s t : State}

theorem exec_idle (h : exec i s = .next t) : t.busy = false := by
  cases exec_effect h with
  | raised c run => rw [run]; rfl
  | sent _ _ _ _ _ _ _ _ _ _ run => exact run.idle
  | exchanged _ _ _ _ _ _ run => exact run.idle
  | focused _ _ _ run => exact run.idle
  | entered _ _ _ _ _ run => exact run.idle
  | identified _ _ _ _ _ _ _ run => exact run.idle
  | paramsRead _ _ _ run => exact run.idle
  | waited _ _ run => exact run.idle

/-- FAULTS after an operation is as it was, or gains the one code that is reported. -/
theorem exec_faults (h : exec i s = .next t) :
    (t.faults = s.faults ∧ ∀ c, t.result ≠ .failed c) ∨ ∃ c, t.faults = addFault c s.faults ∧ t.result = .failed c := by
  cases exec_effect h with
  | raised c run => exact .inr ⟨c, by rw [run]; exact ⟨rfl, rfl⟩⟩
  | sent _ _ _ _ _ _ _ _ _ _ run => exact .inl ⟨run.faults, run.result ▸ Result.done_ne_failed _⟩
  | exchanged _ _ _ _ _ _ run => exact .inl ⟨run.faults, run.result ▸ Result.done_ne_failed _⟩
  | focused _ _ _ run => exact .inl ⟨run.faults, run.result ▸ Result.done_ne_failed _⟩
  | entered _ _ _ _ _ run => exact .inl ⟨run.faults, run.result ▸ Result.done_ne_failed _⟩
  | identified _ r0 r1 r2 r3 _ _ run =>
    refine .inl ⟨run.faults, ?_⟩
    rw [run.result]
    cases lookup (assembleSig (frameB3 r1) (frameB3 r2) (frameB3 r3)) with
    | none => exact nofun
    | some row => exact Result.done_ne_failed _
  | paramsRead _ _ _ run => exact .inl ⟨run.faults, run.result ▸ Result.done_ne_failed _⟩
  | waited _ _ run => exact .inl ⟨run.faults, run.result ▸ Result.done_ne_failed _⟩

/-- What is attached after an operation is what its record made of it, so the target memories stay in form. -/
theorem exec_memories (h : exec i s = .next t) (hm : ∀ p, (s.port p).attached.wf) : ∀ p, (t.port p).attached.wf := by
  intro p
  rw [← (exec_replays i s t h).lines.attached p]
  exact State.acts_memories _ _ (fun q => by simpa using hm q) p

theorem exec_sound (h : exec i s = .next t) (hs : ∀ p, (s.port p).sound = true) : ∀ p, (t.port p).sound = true := by
  cases exec_effect h with
  | raised c run => simpa [run] using hs
  | sent p c f r _ _ _ aligned _ enabled run =>
    refine forall_port p ?_ (by rw [run.other]; exact hs _)
    obtain ⟨hd, -, hw, -⟩ := (PortState.sound_iff _).mp (hs p)
    rw [PortState.sound_iff, run.din, run.mode, mode_after_command enabled, run.written, run.chip, run.framePhase]
    exact ⟨hd, by decide, hw, .inr ⟨aligned, rfl⟩⟩
  | exchanged p out inp _ _ settled run =>
    refine forall_port p ?_ (by rw [run.other]; exact hs _)
    obtain ⟨hd, hm, hw, -⟩ := (PortState.sound_iff _).mp (hs p)
    rw [PortState.sound_iff, run.din, run.mode, run.written, run.chip, run.settle]
    exact ⟨hd, hm, hw, .inl (settled p)⟩
  | focused b _ settled run =>
    refine forall_port b ?_ (by rw [run.other, otherAfterFocus_sound]; exact hs _)
    obtain ⟨-, -, hw, -⟩ := (PortState.sound_iff _).mp (hs b)
    rw [PortState.sound_iff, run.mode, run.written, run.chip, run.settle]
    exact ⟨run.din, by decide, hw, .inl (settled b)⟩
  | entered p r _ _ _ run =>
    refine forall_port p ?_ (by rw [run.other]; exact hs _)
    obtain ⟨hd, -, hw, -⟩ := (PortState.sound_iff _).mp (hs p)
    rw [PortState.sound_iff, run.din, run.mode, run.written, run.chip]
    exact ⟨hd, by decide, hw, .inl run.settle⟩
  | identified b r0 r1 r2 r3 _ _ run =>
    refine forall_port b ?_ (by rw [run.other, otherAfterFocus_sound]; exact hs _)
    obtain ⟨-, -, hw, -⟩ := (PortState.sound_iff _).mp (hs b)
    rw [PortState.sound_iff, run.mode, run.written, run.chip]
    refine ⟨run.din, by decide, fun hwr => ?_, .inl run.settle⟩
    cases hf : lookup (assembleSig (frameB3 r1) (frameB3 r2) (frameB3 r3)) with
    | none => exact hw (by simpa [hf] using hwr)
    | some row => exact mem_sigTab_of_lookup hf
  | paramsRead b _ _ run => exact fun q => by rw [run.ports]; exact hs q
  | waited n _ run =>
    intro q
    obtain ⟨hd, hm, hw, hz⟩ := (PortState.sound_iff _).mp (hs q)
    rw [run.ports q, PortState.sound_iff]
    refine ⟨hd, hm, hw, hz.imp_left fun h0 => ?_⟩
    have hn := run.settle q
    show (t.port q).settle = 0
    omega

theorem exec_driven (h : exec i s = .next t) (hs : ∀ p, s.focus = some p → (s.port p).driven = true) :
    ∀ p, t.focus = some p → (t.port p).driven = true := by
  intro q hq
  cases exec_effect h with
  | raised c run =>
    subst run
    simpa using hs q hq
  | sent p c f r _ focus _ _ _ enabled run =>
    rw [run.focus, focus] at hq
    obtain rfl := Option.some.inj hq
    obtain ⟨hr, -, -, hm⟩ := (PortState.driven_iff _).mp (hs p focus)
    have hl : (s.port p).rst.lvl = .low := by
      rcases hm with ⟨hi, -⟩ | ⟨-, hl⟩
      · simp [hi, modeOk_iff] at enabled
      · exact hl
    rw [PortState.driven_iff, run.rst, run.clk, run.dout, run.mode, mode_after_command enabled]
    exact ⟨hr, rfl, rfl, .inr ⟨rfl, hl⟩⟩
  | exchanged p out inp _ focus _ run =>
    rw [run.focus, focus] at hq
    obtain rfl := Option.some.inj hq
    obtain ⟨hr, -, -, hm⟩ := (PortState.driven_iff _).mp (hs p focus)
    rw [PortState.driven_iff, run.rst, run.clk, run.dout, run.mode]
    exact ⟨hr, rfl, rfl, hm⟩
  | focused b _ _ run =>
    rw [run.focus] at hq
    obtain rfl := Option.some.inj hq
    rw [PortState.driven_iff, run.rst, run.clk, run.dout, run.mode]
    exact ⟨rfl, rfl, rfl, .inl ⟨rfl, rfl⟩⟩
  | entered p r _ focus _ run =>
    rw [run.focus, focus] at hq
    obtain rfl := Option.some.inj hq
    rw [PortState.driven_iff, run.rst, run.clk, run.dout, run.mode]
    exact ⟨rfl, rfl, rfl, .inr ⟨rfl, rfl⟩⟩
  | identified b r0 r1 r2 r3 _ _ run =>
    rw [run.focus] at hq
    obtain rfl := Option.some.inj hq
    rw [PortState.driven_iff, run.rst, run.clk, run.dout, run.mode]
    exact ⟨rfl, rfl, rfl, .inr ⟨rfl, rfl⟩⟩
  | paramsRead b _ _ run =>
    rw [run.ports]
    exact hs q (run.focus ▸ hq)
  | waited n _ run =>
    rw [run.ports q]
    exact hs q (run.focus ▸ hq)

theorem exec_settleFocused (h : exec i s = .next t) (hs : ∀ p, 0 < (s.port p).settle → s.focus = some p) :
    ∀ p, 0 < (t.port p).settle → t.focus = some p := by
  cases exec_effect h with
  | raised c run =>
    subst run
    simpa using hs
  | sent p c f r _ focus settled _ _ _ run =>
    refine forall_port p (fun _ => run.focus.trans focus) fun hq => ?_
    rw [run.other, settled] at hq
    exact absurd hq (Nat.lt_irrefl 0)
  | exchanged p out inp _ focus settled run =>
    refine forall_port p (fun _ => run.focus.trans focus) fun hq => ?_
    rw [run.other, settled] at hq
    exact absurd hq (Nat.lt_irrefl 0)
  | focused b _ settled run =>
    refine forall_port b (fun _ => run.focus) fun hq => ?_
    rw [run.other, otherAfterFocus_settle, settled] at hq
    exact absurd hq (Nat.lt_irrefl 0)
  | entered p r _ focus settled run =>
    refine forall_port p (fun _ => run.focus.trans focus) fun hq => ?_
    rw [run.other, settled] at hq
    exact absurd hq (Nat.lt_irrefl 0)
  | identified b r0 r1 r2 r3 _ settled run =>
    refine forall_port b (fun _ => run.focus) fun hq => ?_
    rw [run.other, otherAfterFocus_settle, settled] at hq
    exact absurd hq (Nat.lt_irrefl 0)
  | paramsRead b _ _ run =>
    intro q hq
    rw [run.ports] at hq
    exact run.focus.trans (hs q hq)
  | waited n _ run =>
    intro q hq
    have hn := run.settle q
    exact run.focus.trans (hs q (by omega))

/-- The three lines FOCUS drives are as after reset. -/
def PortState.Untouched (v : PortState) : Prop := v.rst = .undriven ∧ v.clk = .undriven ∧ v.dout = .undriven

theorem PortState.mode_ne_unknown_of_driven {v : PortState} (h : v.driven = true) : v.mode ≠ .unknown := by
  rcases ((PortState.driven_iff v).mp h).2.2.2 with ⟨hm, -⟩ | ⟨hm, -⟩ <;> simp [hm]

/-- A port FOCUS released was driven, so its PORT_MODE is known. -/
theorem otherAfterFocus_untouched {b : Port} (hd : ∀ p, s.focus = some p → (s.port p).driven = true)
    (hs : ∀ p, (s.port p).mode = .unknown → (s.port p).Untouched) (hm : (otherAfterFocus b s).mode = .unknown) :
    (otherAfterFocus b s).Untouched := by
  rcases otherAfterFocus_cases b s with h | ⟨hf, -, h⟩ <;> rw [h] at hm ⊢
  · exact hs _ hm
  · exact absurd hm (show (s.port b.other).mode ≠ .unknown from PortState.mode_ne_unknown_of_driven (hd _ hf))

theorem exec_untouched (h : exec i s = .next t) (hd : ∀ p, s.focus = some p → (s.port p).driven = true)
    (hs : ∀ p, (s.port p).mode = .unknown → (s.port p).Untouched) :
    ∀ p, (t.port p).mode = .unknown → (t.port p).Untouched := by
  cases exec_effect h with
  | raised c run => simpa [run] using hs
  | sent p c f r _ _ _ _ _ enabled run =>
    refine forall_port p (fun hm => ?_) (by rw [run.other]; exact hs _)
    rw [run.mode, mode_after_command enabled] at hm
    cases hm
  | exchanged p out inp _ focus _ run =>
    refine forall_port p (fun hm => ?_) (by rw [run.other]; exact hs _)
    rw [run.mode] at hm
    exact absurd hm (PortState.mode_ne_unknown_of_driven (hd p focus))
  | focused b _ _ run =>
    refine forall_port b (fun hm => ?_) (by rw [run.other]; exact otherAfterFocus_untouched hd hs)
    rw [run.mode] at hm
    cases hm
  | entered p r _ _ _ run =>
    refine forall_port p (fun hm => ?_) (by rw [run.other]; exact hs _)
    rw [run.mode] at hm
    cases hm
  | identified b r0 r1 r2 r3 _ _ run =>
    refine forall_port b (fun hm => ?_) (by rw [run.other]; exact otherAfterFocus_untouched hd hs)
    rw [run.mode] at hm
    cases hm
  | paramsRead b _ _ run => exact fun q => by rw [run.ports]; exact hs q
  | waited n _ run => exact fun q => by rw [run.ports q]; exact hs q

theorem exec_keeps_inv (hs : s.Inv) (h : exec i s = .next t) : t.Inv where
  idle := exec_idle h
  driven := exec_driven h hs.driven
  sound := exec_sound h hs.sound
  settleFocused := exec_settleFocused h hs.settleFocused
  untouched := exec_untouched h hs.driven hs.untouched
  faultsForm := by
    rcases exec_faults h with ⟨hf, -⟩ | ⟨c, hf, -⟩ <;> rw [hf]
    · exact hs.faultsForm
    · exact faultsWf_addFault c _ hs.faultsForm
  memories := exec_memories h hs.memories

end

/-! ### Resets and steps -/

/-- A state whose ports are those after reset, with anything attached whose memories are in form, meets the invariant. -/
theorem inv_of_reset {t : State} (hb : t.busy = false) (hf : t.focus = none) (hl : t.faults = [])
    (hp : ∀ q, t.port q = { PortState.reset with attached := (t.port q).attached }) (hm : ∀ q, (t.port q).attached.wf) :
    t.Inv where
  idle := hb
  driven p h := by rw [hf] at h; cases h
  sound p := by rw [hp]; rfl
  settleFocused p h := by rw [hp] at h; exact absurd h (Nat.lt_irrefl 0)
  untouched p _ := by rw [hp]; exact ⟨rfl, rfl, rfl⟩
  faultsForm := by rw [hl]; exact List.Pairwise.nil
  memories := hm

theorem blockReset_inv {s : State} (hm : ∀ q, (s.port q).attached.wf) : (blockReset s).Inv :=
  inv_of_reset rfl rfl rfl (fun q => by rw [blockReset_port]) (fun q => by rw [blockReset_port]; exact hm q)

theorem resetPartway_inv {s : State} (k : Nat) (w : HostWord) (hm : ∀ q, (s.port q).attached.wf) :
    (resetPartway k w s).Inv :=
  inv_of_reset rfl rfl rfl (fun q => by rw [resetPartway_port])
    (fun q => by rw [resetPartway_port]; exact partway_memories w s k hm q)

/-- The invariant speaks of BUSY, FOCUS, FAULTS and the ports alone. -/
theorem State.Inv.transfer {s t : State} (h : s.Inv) (hb : t.busy = false) (hf : t.focus = s.focus) (hl : faultsWf t.faults)
    (hp : ∀ q, t.port q = s.port q) : t.Inv where
  idle := hb
  driven p := by rw [hf, hp]; exact h.driven p
  sound p := by rw [hp]; exact h.sound p
  settleFocused p := by rw [hf, hp]; exact h.settleFocused p
  untouched p := by rw [hp]; exact h.untouched p
  faultsForm := hl
  memories p := by rw [hp]; exact h.memories p

theorem State.raise_inv {s : State} (h : s.Inv) (c : FaultCode) : (s.raise c).Inv :=
  h.transfer rfl rfl (faultsWf_addFault c _ h.faultsForm) (by simp)

/-- Taking a word from the host leaves the ports alone. -/
theorem State.taken_port (s : State) (rest : List HostWord) (q : Port) :
    ({ s.passReset with requests := rest } : State).port q = s.port q := by cases q <;> rfl

theorem State.taken_inv {s : State} (h : s.Inv) (rest : List HostWord) :
    ({ s.passReset with requests := rest } : State).Inv :=
  h.transfer h.idle rfl h.faultsForm (s.taken_port rest)

theorem perform_keeps_inv {w : HostWord} {s t : State} (hs : s.Inv) (h : perform w s = .next t) : t.Inv := by
  rcases perform_next_cases h with rfl | ⟨i, hi⟩
  · exact State.raise_inv hs .badReq
  · exact exec_keeps_inv hs hi

theorem step_keeps_inv {s t : State} (hs : s.Inv) (h : step s = .next t) : t.Inv := by
  rcases step_cases h with ⟨-, -, rfl⟩ | ⟨-, -, rfl⟩ | ⟨w, rest, -, -, -, hp⟩ | ⟨w, rest, k, -, -, -, rfl⟩
  · exact hs.transfer hs.idle rfl hs.faultsForm (by simp)
  · exact blockReset_inv (by simpa using hs.memories)
  · exact perform_keeps_inv (State.taken_inv hs rest) hp
  · exact resetPartway_inv k w (State.taken_inv hs rest).memories

/-- Settles O57: each part of the invariant is kept by every operation, as `Effect` describes it, and is met after a reset. -/
theorem stepKeepsInv : Obligations.StepKeepsInv := fun _ _ => step_keeps_inv

end Sys2Proof.Machine
end

section
/-! SUPPORT. The bookkeeping each operation moves: FAULTS, SETTLE, the lines of the port that is not focused, FRAME_PHASE, PORT_MODE
and the Chip Records (10_state.md R26, R33 to R38). -/

namespace Sys2Proof.Machine

/-! ### FAULTS (10_state.md R38, 60_exceptions.md R217) -/

theorem exec_mem_faults {i : Instr} {s t : State} (h : exec i s = .next t) (c : FaultCode) :
    c ∈ t.faults ↔ c ∈ s.faults ∨ t.result = .failed c := by
  rcases exec_faults h with ⟨hf, hr⟩ | ⟨d, hf, hr⟩
  · simp [hf, hr c]
  · simp [hf, hr, mem_addFault, Result.failed, or_comm, eq_comm]

theorem perform_mem_faults {w : HostWord} {s t : State} (h : perform w s = .next t) (c : FaultCode) :
    c ∈ t.faults ↔ c ∈ s.faults ∨ t.result = .failed c := by
  rcases perform_next_cases h with rfl | ⟨i, hi⟩
  · simp [mem_addFault, Result.failed, or_comm, eq_comm]
  · exact exec_mem_faults hi c

/-- Settles O22: a step that takes a word performs it, which adds the one code it reports; a reset empties the set. -/
theorem faultsSticky : Obligations.FaultsSticky := by
  refine ⟨rfl, fun _ => rfl, fun s t h hr hn => ?_, fun s t h hn => ?_⟩
  · rcases step_cases h with ⟨h0, -⟩ | ⟨h0, -⟩ | ⟨w, rest, -, -, -, hp⟩ | ⟨w, rest, k, -, -, hk, -⟩
    · exact absurd h0 hr
    · exact absurd h0 hr
    · have taken := perform_mem_faults hp
      exact taken
    · rw [hn] at hk; cases hk
  · rcases step_cases h with ⟨-, h0, -⟩ | ⟨-, -, rfl⟩ | ⟨w, rest, -, -, h0, -⟩ | ⟨w, rest, k, -, -, -, rfl⟩
    · exact absurd h0 hn
    · rfl
    · exact absurd h0 hn
    · rfl

/-! ### SETTLE (10_state.md R37) -/

/-- A settle stays, is lowered by a wait, or is that of the command just sent on the focused port, where none was owed. -/
theorem exec_settle {i : Instr} {s t : State} (h : exec i s = .next t) : ∀ q, (t.port q).settle = (s.port q).settle ∨
    (∃ n, i = .waitMs n ∧ (t.port q).settle ≤ (s.port q).settle) ∨
    (s.focus = some q ∧ (s.port q).settle = 0 ∧
      ∃ f c, frameSent i = some f ∧ decodeFrame f = .ok c ∧ (t.port q).settle = settleOf s.params c) := by
  cases exec_effect h with
  | raised c run => exact fun q => .inl (by simp [run])
  | sent p c f r kind focus settled _ listed _ run =>
    exact forall_port p (.inr (.inr ⟨focus, settled p, f, c, kind, listed, run.settle⟩)) (.inl (by rw [run.other]))
  | exchanged p out inp _ _ _ run => exact forall_port p (.inl run.settle) (.inl (by rw [run.other]))
  | focused b _ _ run =>
    exact forall_port b (.inl run.settle) (.inl (by rw [run.other, otherAfterFocus_settle]))
  | entered p r _ _ settled run =>
    exact forall_port p (.inl (run.settle.trans (settled p).symm)) (.inl (by rw [run.other]))
  | identified b r0 r1 r2 r3 _ settled run =>
    exact forall_port b (.inl (run.settle.trans (settled b).symm)) (.inl (by rw [run.other, otherAfterFocus_settle]))
  | paramsRead b _ _ run => exact fun q => .inl (by rw [run.ports])
  | waited n kind run =>
    intro q
    have hn := run.settle q
    exact .inr (.inl ⟨n, kind, by omega⟩)

/-- Settles O34: of the three things that can happen to a settle, only a wait lowers it and only a command raises it. -/
theorem settleChanges : Obligations.SettleChanges := by
  intro i s t q h
  rcases exec_settle h q with e | ⟨n, hi, hl⟩ | ⟨hp, h0, hc⟩
  · exact ⟨fun hl => absurd hl (by omega), fun hl => absurd hl (by omega)⟩
  · exact ⟨fun _ => ⟨n, hi⟩, fun hr => absurd hr (by omega)⟩
  · exact ⟨fun hl => absurd hl (by omega), fun _ => ⟨hp, hc⟩⟩

/-! ### The lines of the port that is not focused (10_state.md R26) -/

/-- Port q keeps its lines, or it was the focused one and RELEASE has it released. -/
def KeptOrReleased (q : Port) (s t : State) : Prop :=
  ((s.focus ≠ some q ∨ s.params.unfocusedLines = .hold) ∧ ∀ x, (t.port q).line x = (s.port q).line x) ∨
    ((s.focus = some q ∧ s.params.unfocusedLines = .release) ∧ ∀ x, (t.port q).line x = (s.port q).released.line x)

theorem KeptOrReleased.of_focus_kept {q : Port} {s t : State} (hq : t.focus ≠ some q) (hf : t.focus = s.focus)
    (hl : ∀ x, (t.port q).line x = (s.port q).line x) : KeptOrReleased q s t := .inl ⟨.inl (hf ▸ hq), hl⟩

theorem KeptOrReleased.of_otherAfterFocus {b : Port} {s t : State} (ho : t.port b.other = otherAfterFocus b s) :
    KeptOrReleased b.other s t := by
  rw [KeptOrReleased, ho, otherAfterFocus]
  split
  · next hr => exact .inr ⟨hr, fun _ => rfl⟩
  · next hr =>
    refine .inl ⟨?_, fun _ => rfl⟩
    cases hu : s.params.unfocusedLines with
    | hold => exact .inr rfl
    | release => exact .inl fun hf => hr ⟨hf, hu⟩

theorem exec_unfocused_line {i : Instr} {s t : State} (h : exec i s = .next t) (q : Port) (hq : t.focus ≠ some q) :
    KeptOrReleased q s t := by
  have other_of_focus : ∀ p, t.focus = some p → q = p.other := fun p hf =>
    eq_other_of_ne p q fun e => hq (e ▸ hf)
  cases exec_effect h with
  | raised c run => exact .of_focus_kept hq (by rw [run]; rfl) (by simp [run])
  | sent p c f r _ focus _ _ _ _ run =>
    obtain rfl := other_of_focus p (run.focus.trans focus)
    exact .of_focus_kept hq run.focus (by simp [run.other])
  | exchanged p out inp _ focus _ run =>
    obtain rfl := other_of_focus p (run.focus.trans focus)
    exact .of_focus_kept hq run.focus (by simp [run.other])
  | focused b _ _ run =>
    obtain rfl := other_of_focus b run.focus
    exact .of_otherAfterFocus run.other
  | entered p r _ focus _ run =>
    obtain rfl := other_of_focus p (run.focus.trans focus)
    exact .of_focus_kept hq run.focus (by simp [run.other])
  | identified b r0 r1 r2 r3 _ _ run =>
    obtain rfl := other_of_focus b run.focus
    exact .of_otherAfterFocus run.other
  | paramsRead b _ _ run => exact .of_focus_kept hq run.focus (by simp [run.ports])
  | waited n _ run => exact .of_focus_kept hq run.focus fun x => by rw [run.ports q]; cases x <;> rfl

/-- A released port has no line driven, its DIN having been an input. -/
theorem PortState.released_line_dir (v : PortState) (hd : v.din.dir = .input) (x : Line) : (v.released.line x).dir = .input := by
  cases x with
  | din => exact hd
  | rst => rfl
  | clk => rfl
  | dout => rfl

/-- Settles O40: the lines of a port that is not focused are kept, or released where RELEASE says so. -/
theorem unfocusedLinesKeep : Obligations.UnfocusedLinesKeep := by
  intro i s t q hs h hq
  rcases exec_unfocused_line h q hq with ⟨hk, hl⟩ | ⟨⟨hf, hu⟩, hl⟩
  · refine ⟨fun _ => hl, fun ⟨hu, hf⟩ => ?_⟩
    rcases hk with hk | hk
    · exact absurd hf hk
    · rw [hu] at hk; cases hk
  · refine ⟨fun hk => ?_, fun _ x => ?_⟩
    · rcases hk with hk | hk
      · rw [hu] at hk; cases hk
      · exact absurd hf hk
    · rw [hl]
      exact PortState.released_line_dir _ ((PortState.sound_iff _).mp (hs.sound q)).1 x

/-! ### TRANSACT and its checks -/

/-- A TRANSACT with nothing owed is refused as misaligned exactly where FRAME_PHASE is not 0 (60_exceptions.md R220). -/
theorem transact_misaligned_iff {s : State} {p : Port} (f : Frame) (hp : s.focus = some p)
    (hs : ∀ q, (s.port q).settle = 0) :
    (∃ t, exec (.transact f) s = .next t ∧ Faulted .misaligned s t) ↔ (s.port p).framePhase ≠ 0 := by
  have hfault := transactFault_eq f s p hp
  rw [if_neg (by simp [s.settleOwed_eq_false_iff.mpr hs])] at hfault
  constructor
  · rintro ⟨t, h, hm⟩ hz
    rw [if_neg (by simpa using hz)] at hfault
    rcases transactFrame_cases f s with ⟨c, hc, e⟩ | ⟨p', c, -, -, -, -, -, e⟩
    · obtain rfl := Host.Outcome.next.inj (h.symm.trans e)
      have hcm : c = .misaligned := by simpa [Result.failed] using hm.result
      rw [hc, hcm] at hfault
      split at hfault
      · cases hfault
      · split at hfault <;> cases hfault
    · obtain rfl := Host.Outcome.next.inj (h.symm.trans e)
      have hres := hm.result
      rw [(transactRun_sent p' c f s).result] at hres
      cases hres
  · intro hz
    rw [if_pos hz] at hfault
    rcases transactFrame_cases f s with ⟨c, hc, e⟩ | ⟨p', c, hp', -, hz', -, -, -⟩
    · obtain rfl := Option.some.inj (hc.symm.trans hfault)
      exact ⟨_, e, s.raise_faulted _⟩
    · obtain rfl := Option.some.inj (hp.symm.trans hp')
      exact absurd hz' hz

/-! ### FRAME_PHASE (10_state.md R36) -/

/-- Raw bytes with nothing owed all go out, and FRAME_PHASE counts them. -/
theorem execAll_exchanges {p : Port} (l : List Byte) {s : State} (hp : s.focus = some p) (hs : ∀ q, (s.port q).settle = 0) :
    ∃ t, execAll (l.map Instr.exchange) s = some t ∧ t.focus = some p ∧ (∀ q, (t.port q).settle = 0) ∧
      (t.port p).framePhase.val = ((s.port p).framePhase.val + l.length) % 4 := by
  induction l generalizing s with
  | nil => exact ⟨s, rfl, hp, hs, (Nat.mod_eq_of_lt (s.port p).framePhase.isLt).symm⟩
  | cons out l ih =>
    have run := exchangeRun_exchanged p out s
    obtain ⟨t, ht, hf, hz, hc⟩ := ih (run.focus.trans hp)
      (forall_port p (run.settle.trans (hs p)) (by rw [run.other]; exact hs _))
    refine ⟨t, ?_, hf, hz, ?_⟩
    · have he : exec (.exchange out) s = .next (exchangeRun p out s) := execExchange_run out s p hp hs
      simpa [execAll, he] using ht
    · rw [hc, run.framePhase, Fin.val_add, List.length_cons]
      simp only [Fin.val_one]
      omega

/-- Settles O18: the bytes are counted, and TRANSACT looks at the count. -/
theorem rawBytesMisalign : Obligations.RawBytesMisalign := by
  intro p s l f hp hs
  obtain ⟨t, ht, hf, hz, hc⟩ := execAll_exchanges l hp hs
  refine ⟨t, ht, hc, ?_⟩
  rw [transact_misaligned_iff f hf hz, ← hc, Ne, Fin.ext_iff]
  rfl

/-- Settles O43: each operation's frame says what it does to FRAME_PHASE, and TRANSACT checks it. -/
theorem framePhaseRule : Obligations.FramePhaseRule := by
  refine ⟨fun i s t q h hr => ?_, fun f _ _ hp hs hz => (transact_misaligned_iff f hp hs).mpr hz, fun q => by cases q <;> rfl⟩
  revert q
  cases exec_effect h with
  | raised c run => exact absurd (by rw [run]; rfl) hr
  | sent p c f r kind _ _ _ _ _ run =>
    have kept : ∀ q, (t.port q).framePhase = (s.port q).framePhase := forall_port p run.framePhase (by rw [run.other])
    intro q
    rw [kept]
    cases i with
    | exchange | focus | enterProgMode | identify => cases kind
    | _ => rfl
  | exchanged p out inp kind focus _ run =>
    subst kind
    simp only [focus]
    exact forall_port p (by simp [run.framePhase]) (by simp [run.other])
  | focused b kind _ run =>
    subst kind
    exact forall_port b (by simp [run.framePhase]) (by simp [run.other])
  | entered p r kind focus _ run =>
    subst kind
    simp only [focus]
    exact forall_port p (by simp [run.framePhase]) (by simp [run.other])
  | identified b r0 r1 r2 r3 kind _ run =>
    subst kind
    exact forall_port b (by simp [run.framePhase]) (by simp [run.other])
  | paramsRead b kind _ run =>
    subst kind
    simp [run.ports]
  | waited n kind run =>
    subst kind
    exact fun q => by rw [run.ports q]

/-! ### PORT_MODE (10_state.md R35) -/

/-- To use what a check decoded, use it in each branch. -/
theorem of_ite_eq_ok {α β : Type} {c : Prop} [Decidable c] {a b : Except α β} {r : β} {P : Prop} (ha : c → a = .ok r → P)
    (hb : b = .ok r → P) : (if c then a else b) = .ok r → P := fun h =>
  (ite_eq_ok h).elim (fun k => ha k.1 k.2) (fun k => hb k.2)

theorem of_error_eq_ok {α β : Type} {e : α} {r : β} {P : Prop} (h : Except.error e = .ok r) : P := nomatch h

theorem of_ok_eq_ok {α β : Type} {q r : β} {P : β → Prop} (h : P q) : (Except.ok q : Except α β) = .ok r → P r := fun e =>
  Except.ok.inj e ▸ h

/-- A frame that is listed is the one its command is encoded as (30_encoding.md R72): every leaf of CLASSIFY fixes the bytes the
row fixes and takes the others as operands. -/
theorem frameOf_of_decodeFrame {f : Frame} {c : Instr} : decodeFrame f = .ok c → frameOf c = some f := by
  conv => enter [2]; rw [← packFrame_bytes f]
  rw [decodeFrame]
  repeat' refine of_ite_eq_ok (fun _ => ?_) ?_
  any_goals exact of_error_eq_ok
  all_goals
    refine of_ok_eq_ok (P := fun c => frameOf c = _) ?_
    simp only [frameOf, *, addrHi_wordAddr, addrLo_wordAddr]

theorem decodeFrame_progEn_iff (f : Frame) : decodeFrame f = .ok .progEn ↔ f = progEnFrame := by
  constructor
  · exact fun h => (Option.some.inj (frameOf_of_decodeFrame h)).symm
  · rintro rfl
    decide

theorem frameSent_progEn_iff (i : Instr) :
    frameSent i = some progEnFrame ↔ i = .progEn ∨ i = .transact progEnFrame := by
  cases i <;> simp [frameSent, frameOf, progEnFrame, packFrame_inj]

/-- Settles O44: FOCUS, the programming-enable frame and IDENTIFY, which sends it last of all, are what writes PORT_MODE; a
frame that is not PROG_EN is sent in ENABLE_SENT alone. -/
theorem portModeRule : Obligations.PortModeRule := by
  refine ⟨fun i s t q h hr => ?_, fun q => by cases q <;> rfl⟩
  revert q
  cases exec_effect h with
  | raised c run => exact absurd (by rw [run]; rfl) hr
  | sent p c f r kind focus _ _ listed _ run =>
    by_cases hf : f = progEnFrame
    · subst hf
      obtain rfl : c = .progEn := Except.ok.inj (listed.symm.trans ((decodeFrame_progEn_iff _).mpr rfl))
      have mode : ∀ q, (t.port q).mode = if s.focus = some q then .enableSent else (s.port q).mode :=
        forall_port p (by simp [run.mode, focus]) (by simp [run.other, focus])
      rcases (frameSent_progEn_iff i).mp kind with rfl | rfl
      · exact mode
      · simpa [progEnFrame_eq] using mode
    · have hc : c ≠ .progEn := fun e => hf ((decodeFrame_progEn_iff f).mp (e ▸ listed))
      have kept : ∀ q, (t.port q).mode = (s.port q).mode :=
        forall_port p (by rw [run.mode, if_neg hc]) (by rw [run.other])
      intro q
      rw [kept]
      cases i with
      | exchange | focus | enterProgMode | identify => cases kind
      | progEn => exact absurd (Option.some.inj kind).symm hf
      | transact g =>
        obtain rfl := Option.some.inj kind
        exact (if_neg fun e => hf (e.2.trans progEnFrame_eq.symm)).symm
      | _ => rfl
  | exchanged p out inp kind _ _ run =>
    subst kind
    exact forall_port p run.mode (by rw [run.other])
  | focused b kind _ run =>
    subst kind
    exact forall_port b (by simp [run.mode]) (by simp [run.other])
  | entered p r kind focus _ run =>
    subst kind
    simp only [focus]
    exact forall_port p (by simp [run.mode]) (by simp [run.other])
  | identified b r0 r1 r2 r3 kind _ run =>
    subst kind
    exact forall_port b (by simp [run.mode]) (by simp [run.other])
  | paramsRead b kind _ run =>
    subst kind
    simp [run.ports]
  | waited n kind run =>
    subst kind
    exact fun q => by rw [run.ports q]

/-! ### Chip Records (10_state.md R33, R34) -/

/-- A Chip Record stays, or it is the row a successful IDENTIFY of its port found. -/
theorem exec_record {i : Instr} {s t : State} (h : exec i s = .next t) : ∀ q,
    ((t.port q).chip = (s.port q).chip ∧ (t.port q).written = (s.port q).written) ∨
    (i = .identify q ∧ (t.port q).written = true ∧ t.result = .done (.params (t.port q).chip) ∧
      (t.port q).chip ∈ Config.sigTab) := by
  cases exec_effect h with
  | raised c run => exact fun q => .inl (by simp [run])
  | sent p c f r _ _ _ _ _ _ run => exact forall_port p (.inl ⟨run.chip, run.written⟩) (.inl (by simp [run.other]))
  | exchanged p out inp _ _ _ run => exact forall_port p (.inl ⟨run.chip, run.written⟩) (.inl (by simp [run.other]))
  | focused b _ _ run => exact forall_port b (.inl ⟨run.chip, run.written⟩) (.inl (by simp [run.other]))
  | entered p r _ _ _ run => exact forall_port p (.inl ⟨run.chip, run.written⟩) (.inl (by simp [run.other]))
  | identified b r0 r1 r2 r3 kind _ run =>
    refine forall_port b ?_ (.inl (by simp [run.other]))
    rw [run.chip, run.written, run.result]
    cases hf : lookup (assembleSig (frameB3 r1) (frameB3 r2) (frameB3 r3)) with
    | none => exact .inl ⟨rfl, rfl⟩
    | some row => exact .inr ⟨kind, rfl, rfl, mem_sigTab_of_lookup hf⟩
  | paramsRead b _ _ run => exact fun q => .inl (by simp [run.ports])
  | waited n _ run => exact fun q => .inl (by rw [run.ports q]; exact ⟨rfl, rfl⟩)

/-- Settles O51: a record that is not as it was is the row an IDENTIFY of its port found. -/
theorem recordWrittenOnlyByIdentify : Obligations.RecordWrittenOnlyByIdentify := by
  intro i s t q h
  rcases exec_record h q with ⟨hc, hw⟩ | ⟨hi, hw, hr, hm⟩
  · refine ⟨fun hs => hw.trans hs, fun hne => ?_⟩
    rcases hne with hne | hne
    · exact absurd hc hne
    · exact absurd hw hne
  · exact ⟨fun _ => hw, fun _ => ⟨hi, hr, hm, hw⟩⟩

end Sys2Proof.Machine
end

section
/-! SUPPORT. No operation reads the registers that are unspecified between operations (10_state.md R28 to R30): states that differ
there alone stay so through every body, receive the same, and agree once the operation has ended. -/

namespace Sys2Proof.Machine

/-- The two states differ at most in OP, PHASE, BYTE_IDX, BIT_IDX, SR_OUT, SR_IN, CMD and RSP. -/
def SameButScratch (s t : State) : Prop := ∃ k, t = s.setScratch k

namespace SameButScratch

variable {s t : State}

theorem setScratch (h : SameButScratch s t) (k k' : Config.Scratch) : SameButScratch (s.setScratch k) (t.setScratch k') := by
  obtain ⟨_, rfl⟩ := h
  exact ⟨k', rfl⟩

theorem setPhase (h : SameButScratch s t) (x : Config.Phase) : SameButScratch (s.setPhase x) (t.setPhase x) := h.setScratch _ _

theorem lines (h : SameButScratch s t) : SameLines s t := by
  obtain ⟨k, rfl⟩ := h
  exact .setScratch s k

theorem port (h : SameButScratch s t) (p : Port) : s.port p = t.port p := by
  obtain ⟨k, rfl⟩ := h
  simp

theorem setPort (h : SameButScratch s t) (p : Port) (v : PortState) : SameButScratch (s.setPort p v) (t.setPort p v) := by
  obtain ⟨k, rfl⟩ := h
  exact ⟨k, by cases p <;> rfl⟩

theorem drive (h : SameButScratch s t) (p : Port) (x : Line) (v : Level) : SameButScratch (s.drive p x v) (t.drive p x v) := by
  obtain ⟨k, rfl⟩ := h
  exact ⟨k, by cases p <;> rfl⟩

theorem release (h : SameButScratch s t) (p : Port) (x : Line) : SameButScratch (s.release p x) (t.release p x) := by
  obtain ⟨k, rfl⟩ := h
  exact ⟨k, by cases p <;> rfl⟩

theorem sampled (h : SameButScratch s t) (p : Port) : SameButScratch (s.sampled p) (t.sampled p) := by
  obtain ⟨k, rfl⟩ := h
  exact ⟨k, by cases p <;> rfl⟩

theorem delayUs (h : SameButScratch s t) (n : Nat) : SameButScratch (s.delayUs n) (t.delayUs n) := by
  obtain ⟨k, rfl⟩ := h
  exact ⟨k, rfl⟩

/-- The end of an operation draws the registers anew (log 5). -/
theorem finish (h : SameButScratch s t) (r : Result) : s.finish r = t.finish r := by
  obtain ⟨k, rfl⟩ := h
  rfl

/-! ### One byte -/

theorem atSample (h : SameButScratch s t) (p : Port) (i : Fin 8) (hs : s.scratch.srOut = t.scratch.srOut) :
    SameButScratch (s.atSample p i) (t.atSample p i) := by
  rw [State.atSample, State.atSample, hs, h.lines.params]
  exact ((((h.setScratch _ _).drive p .clk .low).drive p .dout _).delayUs _).drive p .clk .high

theorem bitIn (h : SameButScratch s t) (p : Port) (i : Fin 8) (hs : s.scratch.srOut = t.scratch.srOut) :
    s.bitIn p i = t.bitIn p i := (h.atSample p i hs).lines.dinLevel p

theorem shiftBit (h : SameButScratch s t) (p : Port) (i : Fin 8) (hs : s.scratch.srOut = t.scratch.srOut) :
    SameButScratch (s.shiftBit p i) (t.shiftBit p i) := by
  rw [State.shiftBit_eq, State.shiftBit_eq, h.lines.params]
  exact (((h.atSample p i hs).sampled p).setScratch _ _).delayUs _

/-- A byte shift loads SR_OUT before it reads it. -/
theorem afterBits (h : SameButScratch s t) (p : Port) (out : Byte) : ∀ k,
    SameButScratch (s.afterBits p out k) (t.afterBits p out k)
  | 0 => h.setScratch _ _
  | k + 1 => (h.afterBits p out k).shiftBit p _ (by rw [State.afterBits_srOut, State.afterBits_srOut])

/-- All bits of SR_IN are written before it is read (10_state.md R29). -/
theorem byteIn (h : SameButScratch s t) (p : Port) (out : Byte) : s.byteIn p out = t.byteIn p out := by
  have sample : ∀ k, s.sampleOf p out k = t.sampleOf p out k := fun k =>
    (h.afterBits p out k).bitIn p _ (by rw [State.afterBits_srOut, State.afterBits_srOut])
  apply wireBits_injective
  simp only [State.wireBits_byteIn, sample]

theorem shift8 (h : SameButScratch s t) (p : Port) (out : Byte) : SameButScratch (s.shift8 p out) (t.shift8 p out) := by
  rw [State.shift8_eq, State.shift8_eq, State.bits8_eq, State.bits8_eq]
  exact (h.afterBits p out 8).drive p .clk .low

/-! ### One frame -/

theorem shiftByte (h : SameButScratch s t) (p : Port) (k : Fin 4) (hc : s.scratch.cmd = t.scratch.cmd) :
    SameButScratch (s.shiftByte p k) (t.shiftByte p k) := by
  show SameButScratch ((State.shift8 _ p (regAt s.scratch.cmd k)).setScratch _)
    ((State.shift8 _ p (regAt t.scratch.cmd k)).setScratch _)
  rw [hc]
  exact ((h.setScratch _ _).shift8 p _).setScratch _ _

/-- A frame loads CMD before it reads it. -/
theorem afterBytes (h : SameButScratch s t) (p : Port) (f : Frame) : ∀ k,
    SameButScratch (s.afterBytes p f k) (t.afterBytes p f k)
  | 0 => h.setScratch _ _
  | k + 1 => (h.afterBytes p f k).shiftByte p _ (by rw [State.afterBytes_cmd, State.afterBytes_cmd])

theorem frameIn (h : SameButScratch s t) (p : Port) (f : Frame) : s.frameIn p f = t.frameIn p f := by
  have answer : ∀ k, s.answerOf p f k = t.answerOf p f k := fun k =>
    ((h.afterBytes p f k).setScratch _ _).byteIn p _
  simp only [State.frameIn, answer]

theorem commandSent (h : SameButScratch s t) (p : Port) (c : Instr) : SameButScratch (s.commandSent p c) (t.commandSent p c) := by
  rw [State.commandSent, State.commandSent, h.port, h.lines.params]
  exact h.setPort p _

theorem sendCommand (h : SameButScratch s t) (p : Port) (c : Instr) (f : Frame) :
    SameButScratch (s.sendCommand p c f) (t.sendCommand p c f) := (h.afterBytes p f 4).commandSent p c

/-! ### The bodies of the operations -/

theorem start (h : SameButScratch s t) (op : Config.HostOp) : SameButScratch (s.start op) (t.start op) := by
  obtain ⟨k, rfl⟩ := h
  exact ⟨{ k with op := op }, rfl⟩

theorem strobe (h : SameButScratch s t) (p : Port) : SameButScratch (strobe p s) (Machine.strobe p t) := by
  obtain ⟨k, rfl⟩ := h
  exact ⟨{ k with phase := .settleWait }, by cases p <;> rfl⟩

theorem enterBody (h : SameButScratch s t) (p : Port) : SameButScratch (enterBody p s) (Machine.enterBody p t) :=
  ((h.strobe p).setPhase .enable).sendCommand p _ _

theorem readSigBody (h : SameButScratch s t) (b : Port) (n : Fin 3) :
    SameButScratch (readSigBody b n s) (Machine.readSigBody b n t) := (h.setPhase (.sig n)).sendCommand b _ _

theorem bindPort (h : SameButScratch s t) (b : Port) : SameButScratch (bindPort b s) (Machine.bindPort b t) := by
  obtain ⟨k, rfl⟩ := h
  exact ⟨k, by cases b <;> rfl⟩

theorem releasePort (h : SameButScratch s t) (q : Port) : SameButScratch (releasePort q s) (Machine.releasePort q t) :=
  ((h.release q .rst).release q .clk).release q .dout

theorem focusBody (h : SameButScratch s t) (b : Port) : SameButScratch (focusBody b s) (Machine.focusBody b t) := by
  have hr : releasedBy b t = releasedBy b s := by
    obtain ⟨k, rfl⟩ := h
    rfl
  rw [Machine.focusBody, Machine.focusBody, hr]
  cases releasedBy b s with
  | none => exact h.bindPort b
  | some q => exact (h.releasePort q).bindPort b

theorem identifyFocused (h : SameButScratch s t) (b : Port) :
    SameButScratch (identifyFocused b s) (Machine.identifyFocused b t) :=
  (((h.start .identify).setPhase .focusing).focusBody b).setPhase .entering

theorem identifyAfter (h : SameButScratch s t) (b : Port) : ∀ k,
    SameButScratch (identifyAfter b s k) (Machine.identifyAfter b t k)
  | 0 => (h.identifyFocused b).enterBody b
  | k + 1 => (h.identifyAfter b k).readSigBody b _

theorem identifyFound (h : SameButScratch s t) (b : Port) : identifyFound b s = Machine.identifyFound b t := by
  have answer : ∀ k, identifyAnswer b s k = identifyAnswer b t k := fun k =>
    ((h.identifyAfter b k.val).setPhase _).frameIn b _
  simp only [Machine.identifyFound, answer]

end SameButScratch

/-! ### The operations -/

section
variable {s t : State} (h : SameButScratch s t)
include h

theorem exchangeRun_congr (p : Port) (out : Byte) : exchangeRun p out s = exchangeRun p out t := by
  have h' := (h.start .exchange).shift8 p out
  have hr : ((s.start .exchange).shift8 p out).scratch.srIn = ((t.start .exchange).shift8 p out).scratch.srIn :=
    (h.start .exchange).byteIn p out
  simp only [exchangeRun, State.complete, State.setPort_scratch, h'.port, hr]
  exact (h'.setPort p _).finish _

theorem transactRun_congr (p : Port) (c : Instr) (f : Frame) : transactRun p c f s = transactRun p c f t := by
  have h' := (h.start .transact).sendCommand p c f
  simp only [transactRun, State.complete, State.sendCommand_received, (h.start .transact).frameIn p f]
  exact h'.finish _

theorem focusRun_congr (b : Port) : focusRun b s = focusRun b t := ((h.start .focus).focusBody b).finish _

theorem enterRun_congr (p : Port) : enterRun p s = enterRun p t := by
  have h' := h.start .enterProgMode
  have hr : enterAnswer p (s.start .enterProgMode) = enterAnswer p (t.start .enterProgMode) :=
    ((h'.strobe p).setPhase _).frameIn p _
  simp only [enterRun, State.complete, enterBody_received, hr]
  exact (h'.enterBody p).finish _

theorem identifyRun_congr (b : Port) : identifyRun b s = identifyRun b t := by
  have h' := h.identifyAfter b 3
  simp only [identifyRun_eq, identifyEnd, h.identifyFound b, h'.port]
  exact (h'.setPort b _).finish _

theorem paramsRun_congr (b : Port) : paramsRun b s = paramsRun b t := by
  rw [paramsRun, paramsRun, h.port]
  exact (h.start .readParams).finish _

theorem waitRun_congr (n : BitVec 32) : waitRun n s = waitRun n t := by
  obtain ⟨k, rfl⟩ := h
  rfl

/-- The checks of TRANSACT read none of these registers, and neither does its body. -/
theorem transactFrame_congr (f : Frame) : transactFrame f s = transactFrame f t := by
  have hf : transactFault f s = transactFault f t := by
    obtain ⟨k, rfl⟩ := h
    rfl
  have hp : s.focus = t.focus := by
    obtain ⟨k, rfl⟩ := h
    rfl
  have hr : ∀ c, s.raise c = t.raise c := by
    obtain ⟨k, rfl⟩ := h
    exact fun _ => rfl
  simp only [transactFrame, hf, hp, hr, transactRun_congr h]

end

/-- Settles O54: the checks do not read the registers, and each body writes those it reads. -/
theorem scratchNeverRead : Obligations.ScratchNeverRead := by
  intro i s k
  have h : SameButScratch s (s.setScratch k) := ⟨k, rfl⟩
  cases i with
  | exchange out =>
    show execExchange out (s.setScratch k) = execExchange out s
    simp only [execExchange, ← exchangeRun_congr h]
    rfl
  | focus b =>
    show execFocus b (s.setScratch k) = execFocus b s
    simp only [execFocus, ← focusRun_congr h]
    rfl
  | enterProgMode =>
    show execEnterProgMode (s.setScratch k) = execEnterProgMode s
    simp only [execEnterProgMode, ← enterRun_congr h]
    rfl
  | identify b =>
    show execIdentify b (s.setScratch k) = execIdentify b s
    simp only [execIdentify, ← identifyRun_congr h]
    rfl
  | readParams b =>
    show execReadParams b (s.setScratch k) = execReadParams b s
    simp only [execReadParams, ← paramsRun_congr h, paramsFault, State.setScratch_port]
    rfl
  | waitMs n => exact congrArg Host.Outcome.next (waitRun_congr h n).symm
  | _ => exact (transactFrame_congr h _).symm

end Sys2Proof.Machine
end

section
/-! SUPPORT. How many samples and clock rises each waveform holds (30_encoding.md R80). -/

namespace Sys2Proof.Machine

/-! ### Samples and clock highs of a record -/

theorem samplesOn_append (p : Port) (v w : List LineEvent) : samplesOn p (v ++ w) = samplesOn p v ++ samplesOn p w :=
  List.filterMap_append

theorem levelsOn_append (x : Config.PhysLine) (v w : List LineEvent) : levelsOn x (v ++ w) = levelsOn x v ++ levelsOn x w :=
  List.filterMap_append

/-- The record w clocks n bits on port o and none on any other: so many samples of DIN, so many times CLK high. -/
def Clocks (o : Option Port) (n : Nat) (w : List LineEvent) : Prop :=
  ∀ q, (samplesOn q w).length = (if o = some q then n else 0) ∧
    (levelsOn ⟨q, .clk⟩ w).count .high = (if o = some q then n else 0)

theorem Clocks.append {o : Option Port} {m n : Nat} {v w : List LineEvent} (hv : Clocks o m v) (hw : Clocks o n w) :
    Clocks o (m + n) (v ++ w) := by
  intro q
  obtain ⟨hv1, hv2⟩ := hv q
  obtain ⟨hw1, hw2⟩ := hw q
  rw [samplesOn_append, levelsOn_append, List.length_append, List.count_append, hv1, hv2, hw1, hw2]
  split <;> exact ⟨rfl, rfl⟩

/-- An action that is no sample and does not drive CLK high clocks nothing. -/
def LineEvent.quiet : LineEvent → Bool
  | .sample _ _ => false
  | .drive x v => !(x.line == .clk && v == .high)
  | .release _ | .delayUs _ | .delayMs _ => true

theorem clocks_zero_of_quiet (o : Option Port) {w : List LineEvent} (h : ∀ e ∈ w, e.quiet = true) : Clocks o 0 w := by
  intro q
  simp only [ite_self]
  constructor
  · rw [List.length_eq_zero_iff, samplesOn, List.filterMap_eq_nil_iff]
    intro e he
    cases e with
    | sample p v => exact absurd (h _ he) (by simp [LineEvent.quiet])
    | _ => rfl
  · rw [List.count_eq_zero, levelsOn, List.mem_filterMap]
    rintro ⟨e, he, hv⟩
    cases e with
    | drive x v =>
      obtain ⟨rfl, rfl⟩ : x = ⟨q, .clk⟩ ∧ v = .high := by simpa using hv
      exact absurd (h _ he) (by simp [LineEvent.quiet])
    | _ => cases hv

/-! ### The waveforms -/

section
variable (p : Port) (tHalf : Nat)

theorem clocks_bitWave (out inp : Bool) : Clocks (some p) 1 (bitWave p tHalf out inp) := by
  intro q
  by_cases h : p = q <;> simp [bitWave, samplesOn, levelsOn, h]

theorem clocks_bits (l : List (Bool × Bool)) :
    Clocks (some p) l.length (l.flatMap fun b => bitWave p tHalf b.1 b.2) := by
  induction l with
  | nil => exact clocks_zero_of_quiet _ nofun
  | cons b l ih =>
    rw [List.flatMap_cons, List.length_cons, Nat.add_comm]
    exact (clocks_bitWave p tHalf _ _).append ih

theorem clocks_byteWave (out inp : Byte) : Clocks (some p) 8 (byteWave p tHalf out inp) :=
  (clocks_bits p tHalf ((wireBits out).zip (wireBits inp))).append (clocks_zero_of_quiet _ (by simp [LineEvent.quiet]))

theorem clocks_frameWave (out inp : Frame) : Clocks (some p) 32 (frameWave p tHalf out inp) :=
  (((clocks_byteWave p tHalf _ _).append (clocks_byteWave p tHalf _ _)).append (clocks_byteWave p tHalf _ _)).append
    (clocks_byteWave p tHalf _ _)

end

theorem clocks_strobeWave (o : Option Port) (p : Port) (k : Config.Params) : Clocks o 0 (strobeWave p k) :=
  clocks_zero_of_quiet o (by simp [strobeWave, LineEvent.quiet])

theorem clocks_focusWave (o : Option Port) (b : Port) (old : Option Port) (k : Config.Params) :
    Clocks o 0 (focusWave b old k) := by
  refine Clocks.append ?_ (clocks_zero_of_quiet o (by simp [bindWave, LineEvent.quiet]))
  cases old with
  | none => exact clocks_zero_of_quiet o nofun
  | some q =>
    dsimp only
    split
    · exact clocks_zero_of_quiet o (by simp [releaseWave, LineEvent.quiet])
    · exact clocks_zero_of_quiet o nofun

/-! ### The operations -/

theorem wireLength_of_frameSent {i : Instr} {f : Frame} (h : frameSent i = some f) : wireLength i = 32 := by
  cases i with
  | exchange | focus | enterProgMode | identify | readParams | waitMs => cases h
  | _ => rfl

/-- A fault does nothing on the lines; any other operation clocks its wire length on the port then focused, of which there is one
where that length is not 0. -/
theorem exec_clocks {i : Instr} {s t : State} (h : exec i s = .next t) : (t.result.status = .fault ∧ t.waveform = []) ∨
    (t.result.status ≠ .fault ∧ Clocks t.focus (wireLength i) t.waveform ∧ (wireLength i ≠ 0 → t.focus ≠ none)) := by
  cases exec_effect h with
  | raised c run => exact .inl (by rw [run]; exact ⟨rfl, rfl⟩)
  | sent p c f r kind focus _ _ _ _ run =>
    rw [run.result, run.wave, run.focus, focus, wireLength_of_frameSent kind]
    exact .inr ⟨nofun, clocks_frameWave p _ _ _, nofun⟩
  | exchanged p out inp kind focus _ run =>
    rw [run.result, run.wave, run.focus, focus, kind]
    exact .inr ⟨nofun, clocks_byteWave p _ _ _, nofun⟩
  | focused b kind _ run =>
    rw [run.result, run.wave, run.focus, kind]
    exact .inr ⟨nofun, clocks_focusWave _ b _ _, nofun⟩
  | entered p r kind focus _ run =>
    rw [run.result, run.wave, run.focus, focus, kind]
    exact .inr ⟨nofun, (clocks_strobeWave _ p _).append (clocks_frameWave p _ _ _), nofun⟩
  | identified b r0 r1 r2 r3 kind _ run =>
    rw [run.result, run.wave, run.focus, kind]
    refine .inr ⟨?_, ?_, nofun⟩
    · cases lookup (assembleSig (frameB3 r1) (frameB3 r2) (frameB3 r3)) <;> nofun
    · exact (((((clocks_focusWave _ b _ _).append (clocks_strobeWave _ b _)).append (clocks_frameWave b _ _ _)).append
        (clocks_frameWave b _ _ _)).append (clocks_frameWave b _ _ _)).append (clocks_frameWave b _ _ _)
  | paramsRead b kind _ run =>
    rw [run.result, run.wave, kind]
    exact .inr ⟨nofun, clocks_zero_of_quiet _ nofun, fun h0 => absurd rfl h0⟩
  | waited n kind run =>
    rw [run.result, run.wave, kind]
    exact .inr ⟨nofun, clocks_zero_of_quiet _ (by simp [LineEvent.quiet]), fun h0 => absurd rfl h0⟩

/-- Settles O55: each operation's waveform is made of bits, bytes and frames, which clock 1, 8 and 32, and of quiet actions. -/
theorem wireLengths : Obligations.WireLengths := by
  intro i s t h
  rcases exec_clocks h with ⟨hr, hw⟩ | ⟨hr, hc, hf⟩
  · exact ⟨fun _ => hw, fun hn => absurd hr hn, fun hn => absurd hr hn⟩
  · exact ⟨fun hn => absurd hn hr, fun _ => hc, fun _ => hf⟩

end Sys2Proof.Machine
end

section
/-! SUPPORT. A reset of the block and the targets (20_memory.md R56, 70_reset_and_hazards.md R230 to R233): before the next FOCUS
nothing is reached, and a reset partway through an operation leaves the actions done. -/

namespace Sys2Proof.Machine

/-! ### Before the next FOCUS -/

/-- Nothing is focused, no line is driven, and what is attached to each port is as in s. -/
structure Unreached (s t : State) : Prop where
  focus : t.focus = none
  attached : ∀ q, (t.port q).attached = (s.port q).attached
  inputs : ∀ q, (t.port q).rst.dir = .input ∧ (t.port q).clk.dir = .input ∧ (t.port q).dout.dir = .input ∧
    (t.port q).din.dir = .input

theorem blockReset_unreached (s : State) : Unreached s (blockReset s) :=
  ⟨rfl, fun q => by rw [blockReset_port], fun q => by rw [blockReset_port]; exact ⟨rfl, rfl, rfl, rfl⟩⟩

/-- With nothing focused an operation that moves no focus faults, or it is READ_PARAMS or WAIT_MS, which drive no line. -/
theorem Unreached.exec {r s t : State} {i : Instr} (hr : Unreached r s) (hi : ∀ b, i ≠ .focus b ∧ i ≠ .identify b)
    (h : exec i s = .next t) : Unreached r t := by
  have kept : t.focus = s.focus → (∀ q, (t.port q).attached = (s.port q).attached ∧ (t.port q).rst = (s.port q).rst ∧
      (t.port q).clk = (s.port q).clk ∧ (t.port q).dout = (s.port q).dout ∧ (t.port q).din = (s.port q).din) →
      Unreached r t := by
    intro hf hp
    refine ⟨hf.trans hr.focus, fun q => (hp q).1.trans (hr.attached q), fun q => ?_⟩
    obtain ⟨-, h1, h2, h3, h4⟩ := hp q
    rw [h1, h2, h3, h4]
    exact hr.inputs q
  have unfocused : ∀ p, s.focus ≠ some p := fun p => by rw [hr.focus]; nofun
  cases exec_effect h with
  | raised c run => exact kept (by rw [run]; rfl) (by simp [run])
  | sent p _ _ _ _ focus => exact absurd focus (unfocused p)
  | exchanged p _ _ _ focus => exact absurd focus (unfocused p)
  | focused b kind => exact absurd kind (hi b).1
  | entered p _ _ focus => exact absurd focus (unfocused p)
  | identified b _ _ _ _ kind => exact absurd kind (hi b).2
  | paramsRead b _ _ run => exact kept run.focus (by simp [run.ports])
  | waited n _ run => exact kept run.focus fun q => by rw [run.ports q]; exact ⟨rfl, rfl, rfl, rfl, rfl⟩

theorem Unreached.execAll {r : State} (l : List Instr) (hi : ∀ i ∈ l, ∀ b, i ≠ .focus b ∧ i ≠ .identify b) :
    ∀ {s t : State}, Unreached r s → execAll l s = some t → Unreached r t := by
  induction l with
  | nil =>
    intro s t hs h
    cases h
    exact hs
  | cons i l ih =>
    intro s t hs h
    obtain ⟨u, hu⟩ := exec_next i s
    rw [Machine.execAll, hu] at h
    exact ih (fun j hj => hi j (List.mem_cons_of_mem _ hj)) (hs.exec (hi i List.mem_cons_self) hu) h

/-! ### A reset that lands in an operation -/

theorem resetPartway_atReset (k : Nat) (w : HostWord) (s : State) : AtReset (resetPartway k w s) := by
  refine ⟨rfl, fun q => ?_, rfl, fun q => ?_, fun q => ?_, fun q => ?_, fun q => ?_, rfl⟩ <;> rw [resetPartway_port]
  · exact ⟨rfl, rfl, rfl, rfl⟩
  all_goals rfl

theorem resetPartway_attached (k : Nat) (w : HostWord) (s : State) (q : Port) :
    ((resetPartway k w s).port q).attached = ((partway k w s).port q).attached := by
  rw [resetPartway_port]

/-- A reset before the first action leaves the targets as they were. -/
theorem partway_zero_attached (w : HostWord) (s : State) (q : Port) :
    ((partway 0 w s).port q).attached = (s.port q).attached := by
  obtain ⟨u, hu, -⟩ := perform_cases w s
  rw [partway_eq hu]
  simp [State.acts]

/-! ### A reset that lands in a frame -/

theorem decodeHost_transactWord (f : Frame) : decodeHost (transactWord f) = .ok (.transact f) := by
  simp [decodeHost, transactWord]

/-- A listed frame is sent from a port that is ready for it (41_framer.md R122). -/
theorem Ready.perform_transact {p : Port} {s : State} (h : Ready p s) {f : Frame} {c : Instr} (hc : decodeFrame f = .ok c) :
    perform (transactWord f) s = .next (transactRun p c f s) :=
  (perform_ok (decodeHost_transactWord f) s).trans (transactFrame_run f s p c h.focus h.settled h.aligned hc
    (by rw [modeOk_iff]; exact .inl h.enabled))

/-- A target at rest has taken k bytes of a frame once k bytes have gone. -/
theorem State.afterBytes_chip {s : State} {p : Port} {t : Target} (f : Frame) (ht : t.Rested)
    (hc : (s.port p).clk ≠ ⟨.output, .high⟩) (h : (s.port p).attached = .chip t) : ∀ k,
    ((s.afterBytes p f k).port p).attached = .chip (t.afterBytes s.params.erasedByte f k) ∧
      ((s.afterBytes p f k).port p).clk ≠ ⟨.output, .high⟩
  | 0 => by simpa [State.afterBytes, Target.afterBytes] using ⟨h, hc⟩
  | k + 1 => by
    obtain ⟨ha, hk⟩ := State.afterBytes_chip f ht hc h k
    have hb := (State.byteIn_chip
      ((s.afterBytes p f k).setScratch { (s.afterBytes p f k).scratch with byteIdx := Fin.ofNat 4 k }) p
      (regAt (regsOfFrame f) (Fin.ofNat 4 k)) _ (t.afterBytes_rested s.params.erasedByte f ht k) (by simpa using hk)
      (by simpa using ha)).2
    refine ⟨?_, ?_⟩
    · rw [State.afterBytes_attached, hb, State.setScratch_params, (s.afterBytes_kept p f k).params]
      rfl
    · rw [State.afterBytes, State.shiftByte_clk]
      decide

/-- A byte that is not the last of a frame is counted, and the target's mode stays. -/
theorem Target.byteDone_counts (erased : Byte) (t : Target) (b : Byte) (h : t.cnt ≠ 3) :
    (t.byteDone erased b).cnt = t.cnt + 1 ∧ (t.byteDone erased b).mode = t.mode := by
  rw [Target.byteDone]
  split
  · next h0 => simp [h0]
  · next h1 => simp [h1]
  · next h2 => simp [h2]
  · next h3 => exact absurd h3 h

/-- Bytes of a frame that is not whole are counted, and the target's mode stays (20_memory.md R56). -/
theorem Target.afterBytes_partial (erased : Byte) (t : Target) (f : Frame) (h : t.cnt = 0) : ∀ k, k < 4 →
    (t.afterBytes erased f k).cnt.val = k ∧ (t.afterBytes erased f k).mode = t.mode
  | 0, _ => ⟨by rw [Target.afterBytes, h]; rfl, rfl⟩
  | k + 1, hk => by
    obtain ⟨hc, hm⟩ := t.afterBytes_partial erased f h k (by omega)
    have hlast : (t.afterBytes erased f k).cnt ≠ 3 := fun e => by
      have h3 : k = 3 := by rw [← hc, e]; rfl
      omega
    obtain ⟨hc', hm'⟩ := Target.byteDone_counts erased _ (regAt (regsOfFrame f) (Fin.ofNat 4 k)) hlast
    refine ⟨?_, hm'.trans hm⟩
    rw [Target.afterBytes, hc', Fin.val_add, hc]
    exact Nat.mod_eq_of_lt hk

theorem Ready.taken {p : Port} {s : State} (h : Ready p s) (rest : List HostWord) :
    Ready p { s.passReset with requests := rest } where
  focus := h.focus
  settled q := by rw [State.taken_port]; exact h.settled q
  aligned := by rw [State.taken_port]; exact h.aligned
  enabled := by rw [State.taken_port]; exact h.enabled

/-- Settles O12: nothing is focused until the next FOCUS; the actions done before a reset are a beginning of the record; and of
those of a frame the first 49 m are its first m bytes. -/
theorem nothingReachedBeforeFocus : Obligations.NothingReachedBeforeFocus := by
  refine ⟨fun s t l hi h => ?_, fun s w rest k hb hr hk => ?_,
    fun s p f c rest g m hready hb hr hk hc hclk ha hmode hcnt hbit hrx hlatch => ?_⟩
  · have hu := (blockReset_unreached s).execAll l hi h
    exact ⟨hu.focus, fun q => ⟨hu.attached q, hu.inputs q⟩⟩
  · obtain ⟨u, hu, -⟩ := perform_cases w { s.passReset with requests := rest }
    obtain ⟨-, hreq, hres, -⟩ := partway_kept w { s.passReset with requests := rest } k
    refine ⟨_, u, step_reset hb hr hk, hu, resetPartway_atReset _ _ _, hreq, hres, partway_waveform hu k, ?_, ?_⟩
    · rintro rfl q
      rw [resetPartway_attached, partway_zero_attached, State.taken_port]
    · intro hl q
      rw [resetPartway_attached, (partway_whole hu k hl).attached]
  · have rested : g.Rested := ⟨hmode, hbit, hrx, hlatch⟩
    obtain ⟨hcount, hkept⟩ := g.afterBytes_partial s.params.erasedByte f hcnt m.val m.isLt
    refine ⟨_, _, step_reset hb hr hk, ?_, Fin.ext hcount, hkept⟩
    rw [resetPartway_attached, (partway_bytes ((hready.taken rest).perform_transact hc) m).attached]
    refine (State.afterBytes_chip f rested ?_ ?_ m.val).1
    · rw [State.start_port, State.taken_port, hclk]
      decide
    · rw [State.start_port, State.taken_port, ha]

end Sys2Proof.Machine
end

section
/-! SUPPORT. What the targets show and see (20_memory.md R53, R60): the bits a TRANSACT receives, and the port that is not
focused. -/

namespace Sys2Proof.Machine

/-! ### The samples of a waveform (40_bit_channel.md R103) -/

section
variable (p : Port) (tHalf : Nat)

theorem samplesOn_bits (l : List (Bool × Bool)) :
    samplesOn p (l.flatMap fun b => bitWave p tHalf b.1 b.2) = l.map Prod.snd := by
  induction l with
  | nil => rfl
  | cons b l ih =>
    rw [List.flatMap_cons, samplesOn_append, ih]
    simp [bitWave, samplesOn]

theorem samplesOn_byteWave (out inp : Byte) : samplesOn p (byteWave p tHalf out inp) = wireBits inp := by
  have hlen : (wireBits inp).length ≤ (wireBits out).length := by rw [wireBits_length, wireBits_length]
  rw [byteWave, samplesOn_append, samplesOn_bits, List.map_snd_zip hlen]
  exact List.append_nil _

theorem samplesOn_frameWave (out inp : Frame) : samplesOn p (frameWave p tHalf out inp) = frameBits inp := by
  simp only [frameWave, samplesOn_append, samplesOn_byteWave, frameBits]

end

/-! ### What a TRANSACT receives -/

/-- From a stuck line every byte of a frame has all bits alike. -/
theorem State.frameIn_stuck (s : State) (p : Port) (f : Frame) (b : Bool) (h : (s.port p).attached = .stuck b) :
    s.frameIn p f = if b then 0xFFFFFFFF else 0x00000000 := by
  have hk : ∀ k, ((s.afterBytes p f k).port p).attached = .stuck b := by
    intro k
    induction k with
    | zero => simpa [State.afterBytes] using h
    | succ k ih => rw [s.afterBytes_attached]; exact (State.byteIn_stuck _ p _ b (by simpa using ih)).2
  have ha : ∀ k, s.answerOf p f k = if b then 0xFF else 0x00 := fun k =>
    (State.byteIn_stuck _ p _ b (by simpa using hk k)).1
  rw [State.frameIn, ha, ha, ha, ha]
  cases b <;> rfl

theorem transactRun_attached (p : Port) (c : Instr) (f : Frame) (s : State) : ((transactRun p c f s).port p).attached =
    (((s.start .transact).shiftFrame p f).port p).attached := by
  simp [transactRun]

/-- Settles O29: the samples of the frame sent are its answer, bit by bit, and the answer is what each environment shows. -/
theorem transactReceives : Obligations.TransactReceives := by
  intro p f c s hp hs hz hc hm
  have run := transactRun_sent p c f s
  have start_attached : ((s.start .transact).port p).attached = (s.port p).attached := by rw [State.start_port]
  refine ⟨_, _, transactFrame_run f s p c hp hs hz hc hm, run.result, ?_, fun v rest h => ?_, fun h => ?_, fun h => ?_,
    fun h => ?_⟩
  · rw [run.wave, samplesOn_frameWave]
  · rw [transactRun_attached]
    exact State.frameIn_env _ p f v rest (start_attached.trans h)
  · exact (State.frameIn_loop _ p f (start_attached.trans h)).1
  · exact State.frameIn_stuck _ p f false (start_attached.trans h)
  · exact State.frameIn_stuck _ p f true (start_attached.trans h)

/-! ### The port that is not focused (42_multiplexer.md R175) -/

/-- Every operation but a wait leaves the unfocused port as it was, or releases its three driven lines. -/
theorem exec_unfocused_port {i : Instr} {s t : State} (h : exec i s = .next t) (hi : ∀ n, i ≠ .waitMs n) (q : Port)
    (hq : t.focus ≠ some q) : t.port q = s.port q ∨ t.port q = (s.port q).released := by
  have other_of_focus : ∀ p, t.focus = some p → q = p.other := fun p hf =>
    eq_other_of_ne p q fun e => hq (e ▸ hf)
  cases exec_effect h with
  | raised c run => exact .inl (by rw [run, State.raise_port])
  | sent p _ _ _ _ focus _ _ _ _ run =>
    obtain rfl := other_of_focus p (run.focus.trans focus)
    exact .inl run.other
  | exchanged p _ _ _ focus _ run =>
    obtain rfl := other_of_focus p (run.focus.trans focus)
    exact .inl run.other
  | focused b _ _ run =>
    obtain rfl := other_of_focus b run.focus
    rw [run.other]
    exact (otherAfterFocus_cases b s).imp_right fun hr => hr.2.2
  | entered p _ _ focus _ run =>
    obtain rfl := other_of_focus p (run.focus.trans focus)
    exact .inl run.other
  | identified b _ _ _ _ _ _ run =>
    obtain rfl := other_of_focus b run.focus
    rw [run.other]
    exact (otherAfterFocus_cases b s).imp_right fun hr => hr.2.2
  | paramsRead _ _ _ run => exact .inl (run.ports q)
  | waited n kind _ => exact absurd kind (hi n)

/-- Settles O41: a wait lowers the settle alone, and no other operation changes more of the port than its lines. -/
theorem unfocusedTargetSeesNothing : Obligations.UnfocusedTargetSeesNothing := by
  intro i s t q h hq
  cases i with
  | waitMs n =>
    obtain rfl : waitRun n s = t := Host.Outcome.next.inj h
    rw [waitRun_port]
    exact ⟨rfl, rfl, rfl, rfl, rfl, rfl⟩
  | _ =>
    rcases exec_unfocused_port h nofun q hq with e | e <;> rw [e] <;> exact ⟨rfl, rfl, rfl, rfl, rfl, rfl⟩

end Sys2Proof.Machine
end

section
/-! SUPPORT. The two decoders and the encoder are inverse to each other (30_encoding.md R72, R76). -/

namespace Sys2Proof.Machine

/-! ### Frames (30_encoding.md R72) -/

/-- The frame of an instruction decodes to it: the converse of `frameOf_of_decodeFrame`. -/
theorem decodeFrame_of_frameOf {i : Instr} {f : Frame} (h : frameOf i = some f) : decodeFrame f = .ok i := by
  cases i with
  | exchange | transact | focus | enterProgMode | identify | readParams | waitMs => cases h
  | _ =>
    obtain rfl := Option.some.inj h
    simp [decodeFrame]

theorem isFrame_of_frameOf {i : Instr} {f : Frame} (h : frameOf i = some f) : i.isFrame = true := by
  cases i with
  | exchange | transact | focus | enterProgMode | identify | readParams | waitMs => cases h
  | _ => rfl

theorem frameOf_of_isHostOp {i : Instr} (h : i.isHostOp = true) : frameOf i = none := by
  cases hf : frameOf i with
  | none => rfl
  | some f => simp [Instr.isHostOp, isFrame_of_frameOf hf] at h

theorem isHostOp_of_frameOf {i : Instr} (h : frameOf i = none) : i.isHostOp = true := by
  cases i with
  | exchange | transact | focus | enterProgMode | identify | readParams | waitMs => rfl
  | _ => cases h

/-! ### Host words (30_encoding.md R76) -/

/-- D is a byte exactly where its upper 24 bits are 0. -/
theorem extractLsb'_high_eq_zero_iff (d : BitVec 32) :
    d.extractLsb' 8 24 = 0#24 ↔ (d.extractLsb' 0 8).setWidth 32 = d := by
  rw [← BitVec.toNat_inj, ← BitVec.toNat_inj]
  simp [Nat.shiftRight_eq_div_pow]
  omega

theorem extractLsb'_low_setWidth (b : Byte) : (b.setWidth 32).extractLsb' 0 8 = b := by
  rw [← BitVec.toNat_inj]
  simp
  omega

theorem extractLsb'_high_setWidth (b : Byte) : (b.setWidth 32).extractLsb' 8 24 = 0#24 := by
  rw [extractLsb'_high_eq_zero_iff, extractLsb'_low_setWidth]

theorem decodeHost_hostOpWord {i : Instr} (h : i.isHostOp = true) : decodeHost (hostOpWord i) = .ok i := by
  cases i with
  | exchange out => simp [decodeHost, hostOpWord, extractLsb'_low_setWidth, extractLsb'_high_setWidth]
  | transact f => exact decodeHost_transactWord f
  | focus | enterProgMode | identify | readParams | waitMs => simp [decodeHost, hostOpWord]
  | _ => cases h

/-- A host word that decodes is the word of what it decodes to: the checks it passed fix some of its fields, and the others
are the operand. -/
theorem hostOpWord_of_decodeHost {w : HostWord} {i : Instr} :
    decodeHost w = .ok i → i.isHostOp = true ∧ hostOpWord i = w := by
  rw [decodeHost]
  by_cases hr : hostRsv w = 0
  · conv => enter [2, 2, 2]; rw [← packHost_fields w hr]
    rw [if_neg (not_not.mpr hr)]
    repeat' split
    any_goals exact of_error_eq_ok
    all_goals
      refine of_ok_eq_ok (P := fun i => i.isHostOp = true ∧ hostOpWord i = _) ?_
      refine ⟨rfl, ?_⟩
      simp_all [hostOpWord, transactWord, extractLsb'_high_eq_zero_iff]
  · rw [if_pos hr]
    exact of_error_eq_ok

/-! ### Words numbered as in opcode_table.json (30_encoding.md R80) -/

theorem decodeTableWord_frame (f : Frame) : decodeTableWord 32 f.toNat = (decodeFrame f).toOption := by
  rw [decodeTableWord, if_pos ⟨rfl, f.isLt⟩, BitVec.ofNat_toNat, BitVec.setWidth_eq]

theorem decodeTableWord_host (w : HostWord) : decodeTableWord 40 w.toNat = (decodeHost w).toOption := by
  rw [decodeTableWord, if_neg (fun h => absurd h.1 (by decide)), if_pos ⟨rfl, w.isLt⟩, BitVec.ofNat_toNat,
    BitVec.setWidth_eq]

/-- A number that decodes is the number of a frame or of a host word. -/
theorem decodeTableWord_cases {n w : Nat} {i : Instr} (h : decodeTableWord n w = some i) :
    (n = 32 ∧ ∃ f : Frame, f.toNat = w ∧ decodeFrame f = .ok i) ∨
      (n = 40 ∧ ∃ v : HostWord, v.toNat = w ∧ decodeHost v = .ok i) := by
  have ok_of_toOption : ∀ {r : Except DecodeError Instr}, r.toOption = some i → r = .ok i := by
    intro r hr
    cases r with
    | error => cases hr
    | ok j => exact congrArg _ (Option.some.inj hr)
  rw [decodeTableWord] at h
  split at h
  case isTrue hw => exact .inl ⟨hw.1, _, (BitVec.toNat_ofNat _ _).trans (Nat.mod_eq_of_lt hw.2), ok_of_toOption h⟩
  case isFalse =>
    split at h
    case isTrue hw => exact .inr ⟨hw.1, _, (BitVec.toNat_ofNat _ _).trans (Nat.mod_eq_of_lt hw.2), ok_of_toOption h⟩
    case isFalse => cases h

theorem encode_of_frameOf {i : Instr} {f : Frame} (h : frameOf i = some f) : encode i = transactWord f := by
  rw [encode, h]

theorem encode_of_isHostOp {i : Instr} (h : i.isHostOp = true) : encode i = hostOpWord i := by
  rw [encode, frameOf_of_isHostOp h]

theorem encodeTableWord_of_frameOf {i : Instr} {f : Frame} (h : frameOf i = some f) : encodeTableWord i = f.toNat := by
  rw [encodeTableWord, h]

theorem encodeTableWord_of_isHostOp {i : Instr} (h : i.isHostOp = true) : encodeTableWord i = (hostOpWord i).toNat := by
  rw [encodeTableWord, frameOf_of_isHostOp h, ← encode_of_isHostOp h]

theorem bits_of_frameOf {i : Instr} {f : Frame} (h : frameOf i = some f) : i.bits = 32 := by
  rw [Instr.bits, if_pos (isFrame_of_frameOf h)]

theorem bits_of_isHostOp {i : Instr} (h : i.isHostOp = true) : i.bits = 40 := by
  rw [Instr.isHostOp, Bool.not_eq_true'] at h
  rw [Instr.bits, if_neg (by simp [h])]

/-- Settles O2: an ISP frame is decoded by CLASSIFY, a host operation by the host decoder. -/
theorem decodeEncode : Obligations.DecodeEncode := by
  intro i
  cases hf : frameOf i with
  | some f =>
    have hd := decodeFrame_of_frameOf hf
    refine ⟨?_, fun hh => ?_, fun g hg => ?_⟩
    · rw [bits_of_frameOf hf, encodeTableWord_of_frameOf hf, decodeTableWord_frame, hd]
      rfl
    · rw [frameOf_of_isHostOp hh] at hf
      cases hf
    · obtain rfl := Option.some.inj hg
      rw [encode_of_frameOf hf]
      exact ⟨hd, decodeHost_transactWord f⟩
  | none =>
    have hh := isHostOp_of_frameOf hf
    have hd := decodeHost_hostOpWord hh
    refine ⟨?_, fun _ => ?_, nofun⟩
    · rw [bits_of_isHostOp hh, encodeTableWord_of_isHostOp hh, decodeTableWord_host, hd]
      rfl
    · rw [encode_of_isHostOp hh, hd]

/-- Settles O3: both decoders read no word but the one the instruction is encoded as. -/
theorem encodeDecode : Obligations.EncodeDecode := by
  intro n w i h
  rcases decodeTableWord_cases h with ⟨rfl, f, rfl, hd⟩ | ⟨rfl, v, rfl, hd⟩
  · have hf := frameOf_of_decodeFrame hd
    exact ⟨(bits_of_frameOf hf).symm, encodeTableWord_of_frameOf hf⟩
  · obtain ⟨hh, rfl⟩ := hostOpWord_of_decodeHost hd
    exact ⟨(bits_of_isHostOp hh).symm, encodeTableWord_of_isHostOp hh⟩

end Sys2Proof.Machine
end

section
/-! SUPPORT. Host words by the arithmetic of 30_encoding.md R76, and the reserved ones of R78. -/

namespace Sys2Proof.Machine

/-! ### The fields of a host word are digits of its number -/

theorem hostOp_toNat (w : HostWord) : (hostOp w).toNat = w.toNat % 16 := by
  simp [hostOp]

theorem hostB_iff (w : HostWord) : hostB w = true ↔ w.toNat / 16 % 2 = 1 := by
  simp [hostB, BitVec.getLsbD, Nat.testBit_eq_decide_div_mod_eq]

theorem hostRsv_toNat (w : HostWord) : (hostRsv w).toNat = w.toNat / 32 % 8 := by
  simp [hostRsv, Nat.shiftRight_eq_div_pow]

theorem hostD_toNat (w : HostWord) : (hostD w).toNat = w.toNat / 256 := by
  have := w.isLt
  simp [hostD, Nat.shiftRight_eq_div_pow]
  omega

/-- A check refuses where the branch it takes refuses. -/
theorem forall_ite_ne_ok {α β : Type} {c : Prop} [Decidable c] {a b : Except α β} :
    (∀ r, (if c then a else b) ≠ .ok r) ↔ (c ∧ ∀ r, a ≠ .ok r) ∨ (¬ c ∧ ∀ r, b ≠ .ok r) := by
  by_cases hc : c <;> simp [hc]

theorem forall_error_ne_ok {α β : Type} (e : α) : (∀ r : β, Except.error e ≠ .ok r) ↔ True := iff_true_intro nofun

theorem forall_ok_ne_ok {α β : Type} (q : β) : (∀ r, (Except.ok q : Except α β) ≠ .ok r) ↔ False :=
  iff_false_intro fun h => h q rfl

/-- The words that do not decode are those of R78: each check of the decoder is a condition on a digit. -/
theorem reservedWord_iff (w : HostWord) : reservedWord w.toNat ↔ ∀ i, decodeHost w ≠ .ok i := by
  have op_eq : ∀ k : BitVec 4, hostOp w = k ↔ w.toNat % 16 = k.toNat := fun k => by
    rw [← hostOp_toNat, BitVec.toNat_inj]
  have rsv_eq : hostRsv w = 0#3 ↔ w.toNat / 32 % 8 = 0 := by
    rw [← hostRsv_toNat, ← BitVec.toNat_inj]; rfl
  have d_eq : hostD w = 0#32 ↔ w.toNat / 256 = 0 := by
    rw [← hostD_toNat, ← BitVec.toNat_inj]; rfl
  have high_eq : (hostD w).extractLsb' 8 24 = 0#24 ↔ w.toNat / 256 < 256 := by
    have := (hostD w).isLt
    rw [← hostD_toNat, ← BitVec.toNat_inj, BitVec.extractLsb'_toNat, Nat.shiftRight_eq_div_pow, BitVec.toNat_ofNat]
    omega
  simp only [decodeHost, reservedWord, ne_eq, BitVec.ofNat_eq_ofNat, op_eq, rsv_eq, d_eq, high_eq, hostB_iff,
    BitVec.toNat_ofNat]
  simp only [← ne_eq, forall_ite_ne_ok, forall_ok_ne_ok, forall_error_ne_ok, and_true, and_false, or_false]
  have op_lt := Nat.mod_lt w.toNat (show 0 < 16 by decide)
  generalize w.toNat % 16 = op, w.toNat / 16 % 2 = b, w.toNat / 32 % 8 = rsv, w.toNat / 256 = d at op_lt ⊢
  interval_cases op <;> simp <;> omega

/-- Settles O5: a word that does not decode is refused, which is the fault `F_BAD_REQ` and no more. -/
theorem reservedWordsRefused : Obligations.ReservedWordsRefused := by
  refine fun w => ⟨reservedWord_iff w, fun s rest hw hb hr hk => ?_⟩
  have refused := perform_reserved ((reservedWord_iff w).mp hw) { s.passReset with requests := rest }
  exact ⟨_, (step_perform hb hr hk).trans refused, State.raise_faulted .badReq _⟩

end Sys2Proof.Machine
end

section
/-! SUPPORT. The mask-and-match rows of opcode_table.json against the decoders (30_encoding.md R72, R75, R76). -/

namespace Sys2Proof.Machine

/-- A word of a row's width matches the row where its masked bits are the row's. -/
theorem matches_iff {n : Nat} (r : TableRow) (hv : r.val < 2 ^ n) (hm : r.mask < 2 ^ n) (w : BitVec n) :
    r.matches w.toNat = true ↔ w &&& BitVec.ofNat n r.mask = BitVec.ofNat n r.val := by
  rw [TableRow.matches, beq_iff_eq, ← BitVec.toNat_inj, BitVec.toNat_and, BitVec.toNat_ofNat, BitVec.toNat_ofNat,
    Nat.mod_eq_of_lt hv, Nat.mod_eq_of_lt hm]

theorem and_full_byte (b : Byte) : b &&& 0xFF#8 = b := BitVec.and_allOnes

/-! ### Frames -/

/-- A frame matches a row byte by byte. -/
theorem matches_frame_iff (r : TableRow) (hv : r.val < 2 ^ 32) (hm : r.mask < 2 ^ 32) (b0 b1 b2 b3 : Byte) :
    r.matches (packFrame b0 b1 b2 b3).toNat = true ↔
      b0 &&& frameB0 (BitVec.ofNat 32 r.mask) = frameB0 (BitVec.ofNat 32 r.val) ∧
      b1 &&& frameB1 (BitVec.ofNat 32 r.mask) = frameB1 (BitVec.ofNat 32 r.val) ∧
      b2 &&& frameB2 (BitVec.ofNat 32 r.mask) = frameB2 (BitVec.ofNat 32 r.val) ∧
      b3 &&& frameB3 (BitVec.ofNat 32 r.mask) = frameB3 (BitVec.ofNat 32 r.val) := by
  rw [matches_iff r hv hm, ← packFrame_inj, ← packFrame_and, packFrame_bytes, packFrame_bytes]

/-- The frame of an instruction matches the instruction's own row and no other. -/
theorem frameRows_of_frameOf {i : Instr} {f : Frame} (h : frameOf i = some f) :
    (frameRows.filter (fun r => r.matches f.toNat)).map (fun r => r.mnemonic) = [i.mnemonic] := by
  cases i with
  | exchange | transact | focus | enterProgMode | identify | readParams | waitMs => cases h
  | _ =>
    obtain rfl := Option.some.inj h
    simp [frameRows, matches_frame_iff, Instr.mnemonic, frameB0, frameB1, frameB2, frameB3, and_full_byte]

/-- A frame that matches a row is listed. -/
theorem decodeFrame_of_matches {r : TableRow} {f : Frame} (hr : r ∈ frameRows) (h : r.matches f.toNat = true) :
    ∃ i, decodeFrame f = .ok i := by
  rw [← packFrame_bytes f] at h ⊢
  generalize frameB0 f = b0, frameB1 f = b1, frameB2 f = b2, frameB3 f = b3 at h ⊢
  fin_cases hr <;>
    (simp [matches_frame_iff, frameB0, frameB1, frameB2, frameB3, and_full_byte] at h; simp [decodeFrame, h])

/-! ### Host words -/

/-- Four fields make a host word. -/
theorem hostWord_ext_iff {v w : HostWord} :
    v = w ↔ hostOp v = hostOp w ∧ hostB v = hostB w ∧ hostRsv v = hostRsv w ∧ hostD v = hostD w := by
  rw [Bool.eq_iff_iff]
  simp only [← BitVec.toNat_inj, hostOp_toNat, hostB_iff, hostRsv_toNat, hostD_toNat]
  omega

/-- A host word matches a row field by field. -/
theorem matches_host_iff (r : TableRow) (hv : r.val < 2 ^ 40) (hm : r.mask < 2 ^ 40) (w : HostWord) :
    r.matches w.toNat = true ↔
      hostOp w &&& hostOp (BitVec.ofNat 40 r.mask) = hostOp (BitVec.ofNat 40 r.val) ∧
      (hostB w && hostB (BitVec.ofNat 40 r.mask)) = hostB (BitVec.ofNat 40 r.val) ∧
      hostRsv w &&& hostRsv (BitVec.ofNat 40 r.mask) = hostRsv (BitVec.ofNat 40 r.val) ∧
      hostD w &&& hostD (BitVec.ofNat 40 r.mask) = hostD (BitVec.ofNat 40 r.val) := by
  rw [matches_iff r hv hm, hostWord_ext_iff]
  simp only [hostOp, hostB, hostRsv, hostD, BitVec.extractLsb'_and, BitVec.getLsbD_and]

theorem and_full_op (op : BitVec 4) : op &&& 0xF#4 = op := BitVec.and_allOnes

theorem and_full_rsv (rsv : BitVec 3) : rsv &&& 0x7#3 = rsv := BitVec.and_allOnes

theorem and_full_data (d : BitVec 32) : d &&& 0xFFFFFFFF#32 = d := BitVec.and_allOnes

/-- The mask of the upper 24 bits of D. -/
theorem and_high_eq_zero_iff (d : BitVec 32) : d &&& 0xFFFFFF00#32 = 0#32 ↔ d.extractLsb' 8 24 = 0#24 := by
  have high : (d &&& 0xFFFFFF00#32).extractLsb' 8 24 = d.extractLsb' 8 24 :=
    BitVec.extractLsb'_and.trans BitVec.and_allOnes
  have low : (d &&& 0xFFFFFF00#32).extractLsb' 0 8 = 0#8 := BitVec.extractLsb'_and.trans BitVec.and_zero
  constructor
  · intro h
    rw [← high, h]
    rfl
  · intro h
    rw [← (extractLsb'_high_eq_zero_iff _).mp (high.trans h), low]
    rfl

/-- The word of a host operation matches the operation's own row and no other. -/
theorem hostRows_of_isHostOp {i : Instr} (h : i.isHostOp = true) :
    (hostRows.filter (fun r => r.matches (hostOpWord i).toNat)).map (fun r => r.mnemonic) = [i.mnemonic] := by
  cases i with
  | exchange | transact | focus | enterProgMode | identify | readParams | waitMs =>
    rw [hostOpWord]
    simp [hostRows, List.filter_cons, matches_host_iff, transactWord]
    simp [hostOp, hostB, hostRsv, hostD, and_full_op, and_full_data, and_high_eq_zero_iff,
      extractLsb'_high_setWidth, Instr.mnemonic]
  | _ => cases h

/-- A word that matches a row is a host operation. -/
theorem decodeHost_of_matches {r : TableRow} {w : HostWord} (hr : r ∈ hostRows) (h : r.matches w.toNat = true) :
    ∃ i, decodeHost w = .ok i := by
  rw [decodeHost]
  fin_cases hr <;> (
    rw [matches_host_iff _ (by decide) (by decide)] at h
    generalize hostOp w = op, hostB w = b, hostRsv w = rsv, hostD w = d at h ⊢
    simp [hostOp, hostB, hostRsv, hostD, and_full_op, and_full_rsv, and_full_data, and_high_eq_zero_iff] at h
    simp [h])

/-- A word matches the row of what it decodes to alone, or none, where each instruction's word matches its own row alone and
what matches a row decodes. -/
theorem matching_rows {rows : List TableRow} {w : Nat} {d : Except DecodeError Instr}
    (own : ∀ i, d = .ok i → (rows.filter (fun r => r.matches w)).map (fun r => r.mnemonic) = [i.mnemonic])
    (decodes : ∀ r ∈ rows, r.matches w = true → ∃ i, d = .ok i) :
    (rows.filter (fun r => r.matches w)).map (fun r => r.mnemonic) = (d.toOption.map Instr.mnemonic).toList := by
  cases d with
  | ok i => exact own i rfl
  | error e =>
    have none_matches : rows.filter (fun r => r.matches w) = [] :=
      List.filter_eq_nil_iff.mpr fun r hr hm => nomatch decodes r hr hm
    rw [none_matches]
    rfl

/-- Settles O4: each instruction's word matches its own row alone, and what matches a row decodes. -/
theorem oneRowPerWord : Obligations.OneRowPerWord := by
  constructor
  · intro w hw
    obtain ⟨f, rfl⟩ : ∃ f : Frame, f.toNat = w := ⟨.ofNatLT w hw, rfl⟩
    rw [decodeTableWord_frame]
    exact matching_rows (fun i hd => frameRows_of_frameOf (frameOf_of_decodeFrame hd)) fun _ => decodeFrame_of_matches
  · intro w hw
    obtain ⟨v, rfl⟩ : ∃ v : HostWord, v.toNat = w := ⟨.ofNatLT w hw, rfl⟩
    rw [decodeTableWord_host]
    refine matching_rows (fun i hd => ?_) fun _ => decodeHost_of_matches
    obtain ⟨hh, rfl⟩ := hostOpWord_of_decodeHost hd
    exact hostRows_of_isHostOp hh

end Sys2Proof.Machine
end

section
/-! SUPPORT. The text lines: each assembles to the words 30_encoding.md R72, R76 and R82 give it, in range and nowhere
else (R81). -/

namespace Sys2Proof.Machine

/-! ### Words by their numbers -/

/-- `W = D*2^8 + b*2^4 + op` (30_encoding.md R76). -/
theorem packHost_toNat (op : BitVec 4) (b : Bool) (d : BitVec 32) :
    (packHost op b d).toNat = d.toNat * 2 ^ 8 + b.toNat * 2 ^ 4 + op.toNat := by
  have hop := hostOp_toNat (packHost op b d)
  have hb := hostB_iff (packHost op b d)
  have hrsv := hostRsv_toNat (packHost op b d)
  have hd := hostD_toNat (packHost op b d)
  rw [hostOp_pack] at hop
  rw [hostB_pack] at hb
  rw [hostRsv_pack] at hrsv
  rw [hostD_pack] at hd
  cases b <;> simp at hb hrsv ⊢ <;> omega

/-- `{B0, B1, B2, B3}` with B0 in bits 31..24 (30_encoding.md R70). -/
theorem packFrame_toNat (b0 b1 b2 b3 : Byte) :
    (packFrame b0 b1 b2 b3).toNat = b0.toNat * 2 ^ 24 + b1.toNat * 2 ^ 16 + b2.toNat * 2 ^ 8 + b3.toNat := by
  rw [packFrame, BitVec.toNat_append, BitVec.toNat_append, BitVec.toNat_append, ← Nat.shiftLeft_add_eq_or_of_lt b1.isLt,
    ← Nat.shiftLeft_add_eq_or_of_lt b2.isLt, ← Nat.shiftLeft_add_eq_or_of_lt b3.isLt]
  simp only [Nat.shiftLeft_eq]
  omega

theorem packHost_ofNat {n : Nat} (h : n < 2 ^ 32) (op : BitVec 4) :
    packHost op false (BitVec.ofNat 32 n) = BitVec.ofNat 40 (n * 2 ^ 8 + op.toNat) := by
  have := op.isLt
  rw [← BitVec.toNat_inj, packHost_toNat, BitVec.toNat_ofNat, BitVec.toNat_ofNat, Nat.mod_eq_of_lt h,
    Nat.mod_eq_of_lt (by omega), Bool.toNat_false, Nat.zero_mul, Nat.add_zero]

theorem transactWord_ofNat {n : Nat} (h : n < 2 ^ 32) : transactWord (BitVec.ofNat 32 n) = frameWord n :=
  packHost_ofNat h 2

theorem transactWord_eq_frameWord (f : Frame) : transactWord f = frameWord f.toNat := by
  rw [← transactWord_ofNat f.isLt, BitVec.ofNat_toNat, BitVec.setWidth_eq]

theorem addrHi_toNat (w : Half) : (addrHi w).toNat = w.toNat / 2 ^ 8 := by
  have := w.isLt
  simp [addrHi, Nat.shiftRight_eq_div_pow]
  omega

theorem addrLo_toNat (w : Half) : (addrLo w).toNat = w.toNat % 2 ^ 8 := by
  simp [addrLo]

/-! ### The range checks -/

theorem isByte_iff (n : Nat) : isByte n = true ↔ n ≤ 255 := by
  rw [isByte, decide_eq_true_iff]; omega

theorem isHalf_iff (n : Nat) : isHalf n = true ↔ n ≤ 65535 := by
  rw [isHalf, decide_eq_true_iff]; omega

theorem isWord32_iff (n : Nat) : isWord32 n = true ↔ n < 2 ^ 32 := by
  rw [isWord32, decide_eq_true_iff]

theorem isByte_and_iff (a b : Nat) : (isByte a && isByte b) = true ↔ a ≤ 255 ∧ b ≤ 255 := by
  rw [Bool.and_eq_true, isByte_iff, isByte_iff]

theorem isByte_and_isHalf_iff (a b : Nat) : (isByte a && isHalf b) = true ↔ a ≤ 255 ∧ b ≤ 65535 := by
  rw [Bool.and_eq_true, isByte_iff, isHalf_iff]

/-! ### The frame of a `transact` line -/

/-- The number of the frame a `<frame>` stands for, `{B0, B1, B2, B3}` of its row (30_encoding.md R72, R74). -/
def frameNumber : TextFrame → Nat
  | .frame f => f
  | .progEn => 0xAC530000
  | .readSig n => 0x30000000 + n * 2 ^ 8
  | .readEe a => 0xA0000000 + a * 2 ^ 8
  | .writeEe a v => 0xC0000000 + a * 2 ^ 8 + v
  | .readFuseLo => 0x50000000
  | .readFuseExt => 0x50080000
  | .readFuseHi => 0x58080000
  | .writeFuseLo v => 0xACA00000 + v
  | .writeFuseHi v => 0xACA80000 + v
  | .writeFuseExt v => 0xACA40000 + v
  | .chipErase => 0xAC800000
  | .readMemLo w => 0x20000000 + w * 2 ^ 8
  | .readMemHi w => 0x28000000 + w * 2 ^ 8
  | .loadMemLo o v => 0x40000000 + o * 2 ^ 8 + v
  | .loadMemHi o v => 0x48000000 + o * 2 ^ 8 + v
  | .writePage w => 0x4C000000 + w * 2 ^ 8

theorem frameNumber_lt {t : TextFrame} (h : t.wellFormed = true) : frameNumber t < 2 ^ 32 := by
  cases t <;> simp only [TextFrame.wellFormed, isByte_iff, isHalf_iff, isWord32_iff, Bool.and_eq_true] at h <;>
    simp only [frameNumber] <;> omega

/-- In range, a `<frame>` is the frame of its number. -/
theorem toFrame_of_wellFormed {t : TextFrame} (h : t.wellFormed = true) :
    t.toFrame = some (BitVec.ofNat 32 (frameNumber t)) := by
  unfold TextFrame.toFrame
  rw [if_pos h]
  cases t with
  | frame f => rfl
  | _ =>
    refine congrArg some (BitVec.eq_of_toNat_eq ?_)
    rw [packFrame_toNat]
    simp only [TextFrame.wellFormed, isByte_iff, isHalf_iff, Bool.and_eq_true] at h
    simp only [frameNumber, addrHi_toNat, addrLo_toNat, BitVec.ofNat_eq_ofNat, BitVec.toNat_ofNat]
    omega

theorem transactText_of_wellFormed {t : TextFrame} (h : t.wellFormed = true) :
    transactText t = some (.transact (BitVec.ofNat 32 (frameNumber t))) := by
  rw [transactText, toFrame_of_wellFormed h]
  rfl

/-! ### Lines -/

theorem expand_of_not_wellFormed {l : TextLine} (h : ¬ l.wellFormed = true) : l.expand = none := by
  unfold TextLine.expand
  exact if_neg h

theorem expand_transact {t : TextFrame} (h : t.wellFormed = true) :
    (TextLine.transact t).expand = some [.transact (BitVec.ofNat 32 (frameNumber t))] := by
  unfold TextLine.expand
  rw [if_pos (show (TextLine.transact t).wellFormed = true from h)]
  simp only [transactText_of_wellFormed h]
  rfl

theorem expand_readWord {w : Nat} (h : w ≤ 65535) : (TextLine.readWord w).expand =
    both (transactText (.readMemLo w)) (transactText (.readMemHi w)) := by
  unfold TextLine.expand
  exact if_pos ((isHalf_iff w).mpr h)

theorem expand_loadWord {o x : Nat} (ho : o ≤ 255) (hx : x ≤ 65535) : (TextLine.loadWord o x).expand =
    both (transactText (.loadMemLo o (x % 256))) (transactText (.loadMemHi o (x / 256))) := by
  unfold TextLine.expand
  exact if_pos ((isByte_and_isHalf_iff o x).mpr ⟨ho, hx⟩)

/-- A pseudo-instruction that stands for two frames in range. -/
theorem expand_both {l : TextLine} {t u : TextFrame} (h : l.expand = both (transactText t) (transactText u))
    (ht : t.wellFormed = true) (hu : u.wellFormed = true) :
    l.expand = some [.transact (BitVec.ofNat 32 (frameNumber t)), .transact (BitVec.ofNat 32 (frameNumber u))] := by
  rw [h, transactText_of_wellFormed ht, transactText_of_wellFormed hu]
  rfl

theorem wellFormed_loads {o x : Nat} (ho : o ≤ 255) (hx : x ≤ 65535) :
    (TextFrame.loadMemLo o (x % 256)).wellFormed = true ∧ (TextFrame.loadMemHi o (x / 256)).wellFormed = true := by
  simp only [TextFrame.wellFormed, isByte_and_iff]
  omega

/-- A line in range stands for one or two host operations. -/
theorem expand_of_wellFormed {l : TextLine} (h : l.wellFormed = true) :
    ∃ ops, l.expand = some ops ∧ ∀ i ∈ ops, i.isHostOp = true := by
  cases l with
  | transact t => exact ⟨_, expand_transact h, by simp [Instr.isHostOp, Instr.isFrame]⟩
  | readWord w =>
    exact ⟨_, expand_both (expand_readWord ((isHalf_iff w).mp h)) h h, by simp [Instr.isHostOp, Instr.isFrame]⟩
  | loadWord o x =>
    obtain ⟨ho, hx⟩ := (isByte_and_isHalf_iff o x).mp h
    obtain ⟨lo, hi⟩ := wellFormed_loads ho hx
    exact ⟨_, expand_both (expand_loadWord ho hx) lo hi, by simp [Instr.isHostOp, Instr.isFrame]⟩
  | _ =>
    unfold TextLine.expand
    exact ⟨_, if_pos h, by simp [Instr.isHostOp, Instr.isFrame]⟩

theorem assemble_of_expand {l : TextLine} {ops : List Instr} (h : l.expand = some ops) :
    l.assemble = some (ops.map encode) := by
  rw [TextLine.assemble, h]
  rfl

theorem wellFormed_of_expand {l : TextLine} {ops : List Instr} (h : l.expand = some ops) : l.wellFormed = true := by
  by_contra hw
  rw [expand_of_not_wellFormed hw] at h
  cases h

/-- A line assembles to its words where its operands are in range, and to nothing elsewhere. -/
theorem assemble_eq_ite {l : TextLine} {ws : List HostWord} {c : Prop} [Decidable c] (hc : l.wellFormed = true ↔ c)
    (hw : c → l.assemble = some ws) : l.assemble = if c then some ws else none := by
  split
  case isTrue h => exact hw h
  case isFalse h => rw [TextLine.assemble, expand_of_not_wellFormed fun hl => h (hc.mp hl)]; rfl

theorem assemble_transact {t : TextFrame} (h : t.wellFormed = true) :
    (TextLine.transact t).assemble = some [frameWord (frameNumber t)] := by
  rw [assemble_of_expand (expand_transact h), ← transactWord_ofNat (frameNumber_lt h)]
  rfl

theorem assemble_transact_eq_ite {t : TextFrame} {c : Prop} [Decidable c] (hc : t.wellFormed = true ↔ c) :
    (TextLine.transact t).assemble = if c then some [frameWord (frameNumber t)] else none :=
  assemble_eq_ite hc fun h => assemble_transact (hc.mpr h)

theorem assemble_both {l : TextLine} {t u : TextFrame} (h : l.expand = both (transactText t) (transactText u))
    (ht : t.wellFormed = true) (hu : u.wellFormed = true) :
    l.assemble = some [frameWord (frameNumber t), frameWord (frameNumber u)] := by
  rw [assemble_of_expand (expand_both h ht hu), ← transactWord_ofNat (frameNumber_lt ht),
    ← transactWord_ofNat (frameNumber_lt hu)]
  rfl

theorem assemble_exchange {n : Nat} (h : n ≤ 255) :
    (TextLine.exchange n).assemble = some [BitVec.ofNat 40 (n * 2 ^ 8 + 1)] := by
  have hl : (TextLine.exchange n).expand = some [.exchange (BitVec.ofNat 8 n)] := by
    unfold TextLine.expand
    exact if_pos ((isByte_iff n).mpr h)
  have byte : (BitVec.ofNat 8 n).setWidth 32 = BitVec.ofNat 32 n := by
    rw [← BitVec.toNat_inj]
    simp
    omega
  rw [assemble_of_expand hl]
  show some [packHost 1 false ((BitVec.ofNat 8 n).setWidth 32)] = _
  rw [byte, packHost_ofNat (by omega)]
  rfl

theorem assemble_waitMs {n : Nat} (h : n < 2 ^ 32) :
    (TextLine.waitMs n).assemble = some [BitVec.ofNat 40 (n * 2 ^ 8 + 7)] := by
  have hl : (TextLine.waitMs n).expand = some [.waitMs (BitVec.ofNat 32 n)] := by
    unfold TextLine.expand
    exact if_pos ((isWord32_iff n).mpr h)
  rw [assemble_of_expand hl]
  show some [packHost 7 false (BitVec.ofNat 32 n)] = _
  rw [packHost_ofNat h]
  rfl

/-- What the reader gives is in range (30_encoding.md R81). -/
theorem wellFormed_of_readLine {cs : List Char} {l : TextLine} (h : readLine cs = some l) : l.wellFormed = true :=
  (Option.filter_eq_some_iff.mp h).2

/-- Settles O7: a line in range stands for host operations, whose words are their numbers, and a line out of range for none. -/
theorem textRefusesOutOfRange : Obligations.TextRefusesOutOfRange := by
  refine ⟨⟨fun n => assemble_eq_ite (isByte_iff n) assemble_exchange, fun b => by cases b <;> decide,
    by decide, fun b => by cases b <;> decide, fun b => by cases b <;> decide,
    fun n => assemble_eq_ite (isWord32_iff n) assemble_waitMs, fun w => ?_, fun o x => ?_,
    fun b => by cases b <;> decide⟩,
    ⟨fun f => assemble_transact_eq_ite (isWord32_iff f), by decide, fun n => assemble_transact_eq_ite (isByte_iff n),
      fun a => assemble_transact_eq_ite (isByte_iff a), fun a v => assemble_transact_eq_ite (isByte_and_iff a v), by decide,
      by decide, by decide, fun v => assemble_transact_eq_ite (isByte_iff v), fun v => assemble_transact_eq_ite (isByte_iff v),
      fun v => assemble_transact_eq_ite (isByte_iff v), by decide, fun w => assemble_transact_eq_ite (isHalf_iff w),
      fun w => assemble_transact_eq_ite (isHalf_iff w), fun o v => assemble_transact_eq_ite (isByte_and_iff o v),
      fun o v => assemble_transact_eq_ite (isByte_and_iff o v), fun w => assemble_transact_eq_ite (isHalf_iff w)⟩,
    fun cs l h => ?_, fun l ops h => ?_⟩
  · have range := isHalf_iff w
    refine assemble_eq_ite range fun h => ?_
    have words := assemble_both (expand_readWord h) (range.mpr h) (range.mpr h)
    exact words
  · refine assemble_eq_ite (isByte_and_isHalf_iff o x) fun h => ?_
    obtain ⟨lo, hi⟩ := wellFormed_loads h.1 h.2
    have words := assemble_both (expand_loadWord h.1 h.2) lo hi
    exact words
  · obtain ⟨ops, he, -⟩ := expand_of_wellFormed (wellFormed_of_readLine h)
    exact ⟨_, assemble_of_expand he⟩
  · obtain ⟨ops', he, hops⟩ := expand_of_wellFormed (wellFormed_of_expand h)
    obtain rfl := Option.some.inj (h.symm.trans he)
    refine ⟨assemble_of_expand h, fun i hi => ?_⟩
    rw [encode_of_isHostOp (hops i hi)]
    exact decodeHost_hostOpWord (hops i hi)

/-- Settles O6: the lines are those of `TextLine.expand`, and the words are those of their frames' numbers. -/
theorem pseudoInstructionsExpand : Obligations.PseudoInstructionsExpand := by
  refine ⟨fun w hw => ?_, fun o x ho hx => ?_, fun b => rfl, fun w hw => expand_of_not_wellFormed ?_,
    fun o x h => expand_of_not_wellFormed ?_⟩
  · have expands := expand_readWord (Nat.le_of_lt_succ hw)
    have range := (isHalf_iff w).mpr (Nat.le_of_lt_succ hw)
    refine ⟨expands, ?_⟩
    rw [assemble_both expands range range]
    simp only [frameNumber, transactWord_eq_frameWord, packFrame_toNat, BitVec.ofNat_eq_ofNat, BitVec.toNat_ofNat,
      Option.some.injEq, List.cons.injEq, and_true]
    exact ⟨congrArg frameWord (by omega), congrArg frameWord (by omega)⟩
  · have expands := expand_loadWord (Nat.le_of_lt_succ ho) (Nat.le_of_lt_succ hx)
    obtain ⟨lo, hi⟩ := wellFormed_loads (Nat.le_of_lt_succ ho) (Nat.le_of_lt_succ hx)
    refine ⟨expands, ?_⟩
    rw [assemble_both expands lo hi]
    simp only [frameNumber, transactWord_eq_frameWord, packFrame_toNat, BitVec.ofNat_eq_ofNat, BitVec.toNat_ofNat,
      Option.some.injEq, List.cons.injEq, and_true]
    exact ⟨congrArg frameWord (by omega), congrArg frameWord (by omega)⟩
  · rw [TextLine.wellFormed, isHalf_iff]
    omega
  · rw [TextLine.wellFormed, isByte_and_isHalf_iff]
    omega

end Sys2Proof.Machine
end

section
/-! SUPPORT. One step of the machine, and the form of what it answers (30_encoding.md R77, R79; 70_reset_and_hazards.md
R238). -/

namespace Sys2Proof.Machine

/-! ### When a step stops -/

/-- With BUSY = 0, or with no word presented, a step goes on (30_encoding.md R77). -/
theorem step_next {s : State} (h : s.busy = false ∨ s.requests = []) : ∃ t, step s = .next t := by
  cases hr : s.requests with
  | nil => exact ⟨_, step_wait hr⟩
  | cons w rest =>
    have hb : s.busy = false := h.resolve_right (by simp [hr])
    cases hk : s.resetDue with
    | none =>
      obtain ⟨t, ht, -⟩ := perform_cases w { s.passReset with requests := rest }
      exact ⟨t, (step_perform hb hr hk).trans ht⟩
    | some k => exact ⟨_, step_reset hb hr hk⟩

/-- A word presented while BUSY = 1 stops the machine (70_reset_and_hazards.md R238; log 12). -/
theorem step_busy {s : State} (hb : s.busy = true) (hr : s.requests ≠ []) : step s = .fault .requestWhileBusy := by
  obtain ⟨w, rest, hr⟩ := List.exists_cons_of_ne_nil hr
  simp [step, takeRequest, hr, hb]

/-- Settles O10: a step goes on, or a word is presented while BUSY = 1 and it stops. -/
theorem stepStopsOnlyOnHostBreach : Obligations.StepStopsOnlyOnHostBreach := by
  intro s
  have waits : s.requests = [] → s.resetDue = none → step s = .next s.passReset := fun hr hk => by
    rw [step_wait hr, waitForWord, hk]
  by_cases breach : s.busy = true ∧ s.requests ≠ []
  · have stops := step_busy breach.1 breach.2
    exact ⟨by simp [stops], fun f => by simp [stops, breach], waits⟩
  · obtain ⟨t, goes⟩ := step_next (s := s) (by simpa [or_iff_not_imp_left] using breach)
    exact ⟨by simp [goes], fun f => by simp [goes, breach], waits⟩

/-! ### The presented word -/

/-- The meaning of an ISP command is the TRANSACT of its frame (41_framer.md, opening text). -/
theorem exec_eq_transact {c : Instr} {f : Frame} (h : frameOf c = some f) (s : State) : exec c s = exec (.transact f) s := by
  cases c with
  | exchange | transact | focus | enterProgMode | identify | readParams | waitMs => cases h
  | _ =>
    obtain rfl := Option.some.inj h
    rfl

/-- Settles O8: the step performs what the word decodes to, and a TRANSACT of a listed frame is the command of that frame. -/
theorem stepRunsPresentedWord : Obligations.StepRunsPresentedWord := by
  intro s w rest hb hr hk
  have runs : ∀ i, decodeHost w = .ok i → step s = exec i { s.passReset with requests := rest } := fun i hi =>
    (step_perform hb hr hk).trans (perform_ok hi _)
  refine ⟨runs, ?_⟩
  rintro f c rfl hc
  rw [runs _ (decodeHost_transactWord f), exec_eq_transact (frameOf_of_decodeFrame hc)]

/-! ### RESULT (30_encoding.md R79) -/

theorem FaultCode.number_ne_zero (c : FaultCode) : c.number ≠ 0 := by cases c <;> decide

/-- The shape of the value an operation completes with (30_encoding.md R76). -/
def valueShape : Instr → Value → Prop
  | .exchange _, v | .enterProgMode, v => ∃ b, v = .byte b
  | .focus _, v | .waitMs _, v => v = .none
  | .identify _, v | .readParams _, v => ∃ d, v = .params d
  | _, v => ∃ f, v = .frame f

theorem valueShape_frame {i : Instr} {f : Frame} (h : frameSent i = some f) (r : Frame) : valueShape i (.frame r) := by
  cases i with
  | exchange | focus | enterProgMode | identify | readParams | waitMs => cases h
  | _ => exact ⟨r, rfl⟩

/-- The three forms of RESULT: completed with a value of the operation's shape, absent, or failed with a code. -/
theorem exec_result {i : Instr} {s t : State} (h : exec i s = .next t) :
    (∃ v, t.result = .done v ∧ valueShape i v) ∨ t.result = .missing ∨ ∃ c, t.result = .failed c := by
  cases exec_effect h with
  | raised c run => exact .inr (.inr ⟨c, by rw [run]; rfl⟩)
  | sent _ _ _ r kind _ _ _ _ _ run => exact .inl ⟨_, run.result, valueShape_frame kind r⟩
  | exchanged _ _ inp kind _ _ run => exact .inl ⟨_, run.result, kind ▸ ⟨inp, rfl⟩⟩
  | focused _ kind _ run => exact .inl ⟨_, run.result, kind ▸ rfl⟩
  | entered _ r kind _ _ run => exact .inl ⟨_, run.result, kind ▸ ⟨_, rfl⟩⟩
  | identified _ r0 r1 r2 r3 kind _ run =>
    rw [run.result]
    cases lookup (assembleSig (frameB3 r1) (frameB3 r2) (frameB3 r3)) with
    | none => exact .inr (.inl rfl)
    | some row => exact .inl ⟨_, rfl, kind ▸ ⟨row, rfl⟩⟩
  | paramsRead _ kind _ run => exact .inl ⟨_, run.result, kind ▸ ⟨_, rfl⟩⟩
  | waited _ kind run => exact .inl ⟨_, run.result, kind ▸ rfl⟩

/-- Settles O23: each of the three forms of RESULT has the code and the value R79 gives it. -/
theorem resultForm : Obligations.ResultForm := by
  refine ⟨⟨rfl, rfl, rfl⟩, fun i s t h => ?_⟩
  rcases exec_result h with ⟨v, hr, hv⟩ | hr | ⟨c, hr⟩ <;> rw [hr]
  · refine ⟨by simp [Result.done, Result.codeNumber], fun hn => absurd rfl hn, fun _ => ?_⟩
    cases i <;> exact hv
  · exact ⟨by simp [Result.missing, Result.codeNumber], fun _ => rfl, nofun⟩
  · exact ⟨by simp [Result.failed, Result.codeNumber, FaultCode.number_ne_zero], fun _ => rfl, nofun⟩

/-- Settles O1: both decoders, evaluated on the twelve words. -/
theorem writtenWordsDecode : Obligations.WrittenWordsDecode := by
  unfold Obligations.WrittenWordsDecode
  decide

end Sys2Proof.Machine
end

section
/-! SUPPORT. The Bit Channel (40_bit_channel.md R100 to R106): what an EXCHANGE does, the samples it takes, the lines it leaves,
and its waveform as SPI mode 0. -/

namespace Sys2Proof.Machine

/-- Settles O13: the checks pass, and the body meets its frame. -/
theorem exchangeCompletes : Obligations.ExchangeCompletes := fun p out s hp hs =>
  ⟨_, _, execExchange_run out s p hp hs, exchangeRun_exchanged p out s⟩

/-! ### The samples (40_bit_channel.md R103) -/

/-- Bit 7 − k of the byte received is the k-th sample. -/
theorem State.byteIn_getLsbD (s : State) (p : Port) (out : Byte) {k : Nat} (hk : k < 8) :
    (s.byteIn p out).getLsbD (7 - k) = s.sampleOf p out k := by
  have samples : wireBits (s.byteIn p out) = (List.range 8).map (s.sampleOf p out) := s.wireBits_byteIn p out
  have get := wireBits_get (s.byteIn p out) k hk
  rw [samples, List.getElem?_map, List.getElem?_range hk] at get
  exact (Option.some.inj get).symm

theorem samplesOn_other_byteWave (p : Port) (tHalf : Nat) (out inp : Byte) :
    samplesOn p.other (byteWave p tHalf out inp) = [] := by
  obtain ⟨hlen, -⟩ := clocks_byteWave p tHalf out inp p.other
  rwa [if_neg (fun h => ne_other p (Option.some.inj h)), List.length_eq_zero_iff] at hlen

/-- Settles O14: the record holds the bits of the byte received, and each of them is what the environment shows. -/
theorem exchangeSamples : Obligations.ExchangeSamples := by
  intro p out s hp hs
  have run := exchangeRun_exchanged p out s
  have start_attached : ((s.start .exchange).port p).attached = (s.port p).attached := by rw [State.start_port]
  refine ⟨_, _, execExchange_run out s p hp hs, run.result, ?_, ?_, fun k hk => ?_, fun l h k hk => ?_, fun h => ?_,
    fun h => ?_⟩
  · rw [run.wave, samplesOn_byteWave, wireBits_length]
  · rw [run.wave, samplesOn_other_byteWave]
  · rw [run.wave, samplesOn_byteWave, wireBits_get _ k hk]
  · rw [State.byteIn_getLsbD _ p out hk, (State.sampleOf_env _ p out l (start_attached.trans h) k).1, State.start_draws,
      List.headD_eq_head?_getD, List.head?_drop]
  · exact (State.byteIn_stuck _ p out false (start_attached.trans h)).1
  · exact (State.byteIn_stuck _ p out true (start_attached.trans h)).1

/-- Settles O17: under loopback the byte received is the byte sent, in the result and in the record. -/
theorem exchangeLoopback : Obligations.ExchangeLoopback := by
  intro p out s hp hs ha
  have run := exchangeRun_exchanged p out s
  rw [(State.byteIn_loop _ p out (by rw [State.start_port, ha])).1] at run
  exact ⟨_, execExchange_run out s p hp hs, run.result, run.wave⟩

/-! ### The lines (40_bit_channel.md R104) -/

/-- Settles O15: CLK and DOUT are driven, which the invariant says they were before; RST, DIN and the other port are kept. -/
theorem exchangeLines : Obligations.ExchangeLines := by
  intro p out s hi hp hs
  have run := exchangeRun_exchanged p out s
  obtain ⟨-, hclk, hdout, -⟩ := (PortState.driven_iff _).mp (hi.driven p hp)
  refine ⟨_, execExchange_run out s p hp hs, by rw [run.clk], by rw [run.dout], by rw [run.rst], fun x => ?_,
    fun x => by rw [run.other]⟩
  cases x with
  | rst => exact congrArg LineState.dir run.rst
  | clk => exact congrArg LineState.dir (run.clk.trans hclk.symm)
  | dout => exact (congrArg LineState.dir run.dout).trans hdout.symm
  | din => exact congrArg LineState.dir run.din

/-! ### SPI mode 0 (40_bit_channel.md R101) -/

section
variable (p : Port) (tHalf : Nat)

/-- CLK over a row of bits and the last drive: low, then one pulse for each bit. -/
theorem levelsOn_clk_bits (l : List (Bool × Bool)) :
    levelsOn ⟨p, .clk⟩ ((l.flatMap fun b => bitWave p tHalf b.1 b.2) ++ [.drive ⟨p, .clk⟩ .low]) =
      .low :: (List.replicate l.length [.high, .low]).flatten := by
  induction l with
  | nil => simp [levelsOn]
  | cons b l ih =>
    rw [List.flatMap_cons, List.append_assoc, levelsOn_append, ih]
    simp [bitWave, levelsOn, List.replicate_succ]

theorem levelsOn_clk_byteWave (out inp : Byte) : levelsOn ⟨p, .clk⟩ (byteWave p tHalf out inp) =
    .low :: (List.replicate 8 [.high, .low]).flatten :=
  levelsOn_clk_bits p tHalf ((wireBits out).zip (wireBits inp))

theorem levelsOn_dout_bits (l : List (Bool × Bool)) :
    levelsOn ⟨p, .dout⟩ (l.flatMap fun b => bitWave p tHalf b.1 b.2) = (l.map Prod.fst).map levelOf := by
  induction l with
  | nil => rfl
  | cons b l ih =>
    rw [List.flatMap_cons, levelsOn_append, ih]
    simp [bitWave, levelsOn]

theorem levelsOn_dout_byteWave (out inp : Byte) :
    levelsOn ⟨p, .dout⟩ (byteWave p tHalf out inp) = (wireBits out).map levelOf := by
  have hlen : (wireBits out).length ≤ (wireBits inp).length := by rw [wireBits_length, wireBits_length]
  rw [byteWave, levelsOn_append, levelsOn_dout_bits, List.map_fst_zip hlen]
  simp [levelsOn]

/-- One bit passes the scan wherever CLK may go low, and leaves CLK high with its sample taken, so that it may go low again. -/
theorem modeZero_bitWave {clk sampled : Bool} (h : clk = true → sampled = true) (waited : Nat) (out inp : Bool)
    (rest : List LineEvent) : modeZero p tHalf clk waited sampled (bitWave p tHalf out inp ++ rest) =
      modeZero p tHalf true (tHalf + tHalf) true rest := by
  cases clk with
  | false => simp [bitWave, modeZero]
  | true => simp [bitWave, modeZero, h rfl]

theorem modeZero_bits (l : List (Bool × Bool)) {clk sampled : Bool} (h : clk = true → sampled = true) (waited : Nat) :
    modeZero p tHalf clk waited sampled
      ((l.flatMap fun b => bitWave p tHalf b.1 b.2) ++ [.drive ⟨p, .clk⟩ .low]) = true := by
  induction l generalizing clk sampled waited with
  | nil =>
    cases clk with
    | false => simp [modeZero]
    | true => simp [modeZero, h rfl]
  | cons b l ih =>
    rw [List.flatMap_cons, List.append_assoc, modeZero_bitWave p tHalf h]
    exact ih (fun _ => rfl) _

theorem modeZero_byteWave (out inp : Byte) : modeZero p tHalf false 0 false (byteWave p tHalf out inp) = true :=
  modeZero_bits p tHalf ((wireBits out).zip (wireBits inp)) (clk := false) nofun 0

end

/-- Settles O16: CLK goes low and then pulses once for each bit, DOUT carries the bits in wire order, and the record passes the
scan bit by bit. -/
theorem exchangeIsModeZero : Obligations.ExchangeIsModeZero := by
  intro p out s hp hs _
  refine ⟨_, execExchange_run out s p hp hs, ?_⟩
  rw [(exchangeRun_exchanged p out s).wave, rises, falls, levelsOn_clk_byteWave]
  exact ⟨by decide, by decide, rfl, levelsOn_dout_byteWave p _ out _, modeZero_byteWave p _ out _⟩

end Sys2Proof.Machine
end

section
/-! SUPPORT. The Transaction Framer (41_framer.md R120 to R141): each command is the TRANSACT of its frame, what a ready port does
with it, the PORT_MODE it needs and the settle it owes. -/

namespace Sys2Proof.Machine

/-- Settles O9: each meaning is defined as that TRANSACT. -/
theorem commandIsItsTransact : Obligations.CommandIsItsTransact := fun _ _ h s => exec_eq_transact h s

/-- Settles O30: each command's row names its response byte. -/
theorem responseBytes : Obligations.ResponseBytes := by
  intro r0 r1 r2 r3
  refine ⟨?progEn, fun n a w => ?reads, fun a v w => ?others⟩
  case progEn => exact congrArg some (frameB2_pack r0 r1 r2 r3)
  case reads => simp [response]
  case others => simp [response]

/-! ### Commands that run -/

/-- Settles O28: the checks pass, and the body meets its frame. -/
theorem transactCompletes : Obligations.TransactCompletes := fun p f c s hp hs hz hd hm =>
  ⟨_, _, transactFrame_run f s p c hp hs hz hd hm, transactRun_sent p c f s⟩

/-- A command that PORT_MODE allows leaves ENABLE_SENT. -/
theorem transactRun_enabled {p : Port} {c : Instr} {s : State} (hm : modeOk c (s.port p).mode = true) (f : Frame) :
    Sent p f ((s.start .transact).frameIn p f) .enableSent (settleOf s.params c) s (transactRun p c f s) := by
  have run := transactRun_sent p c f s
  rwa [mode_after_command hm] at run

section
variable {p : Port} {c : Instr} {f : Frame} {s : State} (hp : s.focus = some p) (hs : ∀ q, (s.port q).settle = 0)
  (hz : (s.port p).framePhase = 0) (hm : modeOk c (s.port p).mode = true) (hf : frameOf c = some f)
include hp hs hz hm hf

/-- A command that PORT_MODE allows, with nothing owed and whole frames before it, runs as the TRANSACT of its frame. -/
theorem exec_command_run : exec c s = .next (transactRun p c f s) :=
  (exec_eq_transact hf s).trans (transactFrame_run f s p c hp hs hz (decodeFrame_of_frameOf hf) hm)

theorem exec_command_sent : ∃ r t, exec c s = .next t ∧ Sent p f r .enableSent (settleOf s.params c) s t :=
  ⟨_, _, exec_command_run hp hs hz hm hf, transactRun_enabled hm f⟩

end

theorem Ready.modeOk {p : Port} {s : State} (h : Ready p s) (c : Instr) : modeOk c (s.port p).mode = true :=
  (modeOk_iff c _).mpr (.inl h.enabled)

/-- Every command runs on a port that is ready. -/
theorem Ready.exec_run {p : Port} {c : Instr} {f : Frame} {s : State} (h : Ready p s) (hf : frameOf c = some f) :
    exec c s = .next (transactRun p c f s) :=
  exec_command_run h.focus h.settled h.aligned (h.modeOk c) hf

theorem Ready.exec_sent {p : Port} {c : Instr} {f : Frame} {s : State} (h : Ready p s) (hf : frameOf c = some f) :
    ∃ r t, exec c s = .next t ∧ Sent p f r .enableSent (settleOf s.params c) s t :=
  exec_command_sent h.focus h.settled h.aligned (h.modeOk c) hf

/-- Settles O24: `SETTLE_OF` a read is 0. -/
theorem readCommandsComplete : Obligations.ReadCommandsComplete := fun _ _ h =>
  ⟨fun _ => h.exec_sent rfl, fun _ => h.exec_sent rfl, h.exec_sent rfl, h.exec_sent rfl, h.exec_sent rfl,
    fun _ => h.exec_sent rfl, fun _ => h.exec_sent rfl⟩

/-- Settles O25: `SETTLE_OF` a write-type command is its parameter. -/
theorem writeCommandsComplete : Obligations.WriteCommandsComplete := fun _ _ h =>
  ⟨fun _ _ => h.exec_sent rfl, fun _ => h.exec_sent rfl, fun _ => h.exec_sent rfl, fun _ => h.exec_sent rfl,
    h.exec_sent rfl, fun _ => h.exec_sent rfl⟩

/-- Settles O26: `SETTLE_OF` a load is 0. -/
theorem loadCommandsComplete : Obligations.LoadCommandsComplete := fun _ _ h =>
  ⟨fun _ _ => h.exec_sent rfl, fun _ _ => h.exec_sent rfl⟩

/-- Settles O27: MODE_OK of PROG_EN allows both modes. -/
theorem progEnCompletes : Obligations.ProgEnCompletes := fun _ _ hp hs hz hmode =>
  exec_command_sent hp hs hz ((modeOk_iff _ _).mpr (hmode.symm.imp_right fun hr => ⟨rfl, hr⟩)) rfl

/-! ### MODE_OK and SETTLE_OF -/

theorem transactFrame_raise {f : Frame} {s : State} {c : FaultCode} (h : transactFault f s = some c) :
    transactFrame f s = .next (s.raise c) := by
  rw [transactFrame, h]

/-- Settles O31: the check of the mode is the last of TRANSACT, and it passes just where MODE_OK is true. -/
theorem modeRule : Obligations.ModeRule := by
  intro p f c s hp hs hz hd
  refine ⟨modeOk_iff c _, fun hm => ?allowed, fun hm => ?refused⟩
  case allowed =>
    obtain ⟨_, t, ht, run⟩ := transactCompletes p f c s hp hs hz hd hm
    exact ⟨t, ht, by rw [run.result]; rfl⟩
  case refused =>
    have hfault : transactFault f s = some .notEnabled := by
      simp [transactFault_eq f s p hp, s.settleOwed_eq_false_iff.mpr hs, hz, hd, hm]
    exact ⟨_, transactFrame_raise hfault, s.raise_faulted _⟩

/-- Settles O32: SETTLE is written with `SETTLE_OF` of the command sent. -/
theorem settleRule : Obligations.SettleRule := by
  refine ⟨fun _ _ _ => ⟨rfl, rfl, rfl, rfl, rfl, rfl⟩, fun p s c f hr hf => ?_⟩
  obtain ⟨_, t, ht, run⟩ := hr.exec_sent hf
  refine ⟨t, ht, run.settle.trans ?_⟩
  cases c <;> rfl

/-! ### Paying a settle off -/

/-- WAIT_MS has no check (41_framer.md R140). -/
theorem exec_waitMs (n : BitVec 32) (s : State) : exec (.waitMs n) s = .next (waitRun n s) := rfl

/-- Settles O33: it runs in every state, and its body meets its frame. -/
theorem waitCompletes : Obligations.WaitCompletes := fun n s => ⟨_, exec_waitMs n s, waitRun_waited n s⟩

theorem execAll_next {i : Instr} {s t : State} (h : exec i s = .next t) (l : List Instr) :
    execAll (i :: l) s = execAll l t := by
  rw [execAll, h]

/-- Waits one after another lower each settle by their sum. -/
theorem execAll_waits (l : List (BitVec 32)) (s : State) : ∃ t, execAll (l.map Instr.waitMs) s = some t ∧
    ∀ q, (t.port q).settle = (s.port q).settle - (l.map BitVec.toNat).sum := by
  induction l generalizing s with
  | nil => exact ⟨s, rfl, fun _ => rfl⟩
  | cons n l ih =>
    obtain ⟨t, ht, hsettle⟩ := ih (waitRun n s)
    refine ⟨t, (execAll_next (exec_waitMs n s) _).trans ht, fun q => ?_⟩
    rw [hsettle, waitRun_port, PortState.wait, List.map_cons, List.sum_cons, Nat.sub_sub]

/-- Settles O35: what the waits leave of a settle is 0 just where their sum reaches it, and FOCUS looks at what is left. -/
theorem settlePaidOff : Obligations.SettlePaidOff := by
  intro s l b
  obtain ⟨t, ht, hsettle⟩ := execAll_waits l s
  refine ⟨t, ht, fun hpaid => ?paid, fun ⟨q, howed⟩ => ?owed⟩
  case paid =>
    have settled : ∀ q, (t.port q).settle = 0 := fun q => by rw [hsettle]; exact Nat.sub_eq_zero_of_le (hpaid q)
    exact ⟨_, execFocus_run b t settled, focusRun_focused b t⟩
  case owed =>
    have hq : (t.port q).settle ≠ 0 := by rw [hsettle]; exact Nat.sub_ne_zero_of_lt howed
    obtain hrun | ⟨settled, -⟩ := execFocus_cases b t
    · exact ⟨_, hrun, t.raise_faulted _⟩
    · exact absurd (settled q) hq

end Sys2Proof.Machine
end

section
/-! SUPPORT. The reference target behind TRANSACT (95_test_vectors.md TM2 to TM5, informative; log 8): what a ready port receives
from it, and what a command makes of it. -/

namespace Sys2Proof.Machine

/-! ### The answer in R3 -/

/-- What the target answers in R3 to command c: the data of a read in PROG, else B2 (TM3). -/
def Target.answerTo (t : Target) (c : Instr) : TargetAnswer := if t.mode = .prog then t.data c else .echo

/-- Only READ_SIG n with n above 2 is answered by a draw (41_framer.md R124; log 8). -/
theorem Target.answerTo_draw {t : Target} {c : Instr} (h : t.answerTo c = .draw) : ∃ n, c = .readSig n ∧ 2 < n.toNat := by
  rw [Target.answerTo] at h
  split at h
  · cases c with
    | readSig n =>
      refine ⟨n, rfl, ?_⟩
      by_contra hn
      have hcases : n = 0 ∨ n = 1 ∨ n = 2 := by bv_omega
      rcases hcases with rfl | rfl | rfl <;> cases h
    | _ => cases h
  · cases h

/-- The command of a frame whose B3 is not known yet and taken as 0x00: the same row, its value 0x00. -/
def withoutB3 : Instr → Instr
  | .writeEe a _ => .writeEe a 0
  | .writeFuseLo _ => .writeFuseLo 0
  | .writeFuseHi _ => .writeFuseHi 0
  | .writeFuseExt _ => .writeFuseExt 0
  | .loadMemLo o _ => .loadMemLo o 0
  | .loadMemHi o _ => .loadMemHi o 0
  | i => i

theorem frameOf_withoutB3 {c : Instr} {f : Frame} (h : frameOf c = some f) :
    frameOf (withoutB3 c) = some (packFrame (frameB0 f) (frameB1 f) (frameB2 f) 0) := by
  cases c with
  | exchange | transact | focus | enterProgMode | identify | readParams | waitMs => cases h
  | _ =>
    obtain rfl := Option.some.inj h
    simp [frameOf, withoutB3]

theorem Target.data_withoutB3 (t : Target) (c : Instr) : t.data (withoutB3 c) = t.data c := by cases c <;> rfl

@[simp] theorem Target.holding_mode (t : Target) (f : Frame) : (t.holding f).mode = t.mode := rfl
@[simp] theorem Target.holding_b0 (t : Target) (f : Frame) : (t.holding f).b0 = frameB0 f := rfl
@[simp] theorem Target.holding_b1 (t : Target) (f : Frame) : (t.holding f).b1 = frameB1 f := rfl
@[simp] theorem Target.holding_b2 (t : Target) (f : Frame) : (t.holding f).b2 = frameB2 f := rfl

/-- A target that listens answers a listed frame in R3 though B3 has not arrived: B3 decides nothing of the answer. -/
theorem Target.holding_answer3 {t : Target} {f : Frame} {c : Instr} (hmode : t.mode ≠ .off) (hd : decodeFrame f = .ok c) :
    (t.holding f).answer3 = (t.answerTo c).onWire (frameB2 f) := by
  have hrow := decodeFrame_of_frameOf (frameOf_withoutB3 (frameOf_of_decodeFrame hd))
  rw [Target.answer3, Target.answerTo, Target.holding_mode, Target.holding_b0, Target.holding_b1, Target.holding_b2, hrow]
  cases hm : t.mode with
  | off => exact absurd hm hmode
  | sync => rfl
  | prog => simp only [Target.holding_data, Target.data_withoutB3, if_true]

/-! ### Between two frames -/

/-- The target listens and stands between two frames. -/
structure Target.Between (t : Target) : Prop extends Target.Rested t where
  cnt : t.cnt = 0
  tx : t.tx = some 0

/-- The target after a whole frame whose first byte found it at the start of one (TM3). -/
theorem Target.afterFrame_eq {t : Target} (erased : Byte) (f : Frame) (hcnt : t.cnt = 0) : t.afterFrame erased f =
    { ({ t.holding f with cnt := 3, tx := (t.holding f).answer3 } : Target).frameDone erased (frameB3 f) with
      cnt := 0, tx := some 0 } := by
  obtain ⟨-, -, -, hdone⟩ := t.afterFrame_aligned erased f hcnt
  exact hdone

theorem Target.Between.afterFrame {t : Target} (h : t.Between) (erased : Byte) (f : Frame) :
    (t.afterFrame erased f).Between where
  toRested := t.afterBytes_rested erased f h.toRested 4
  cnt := by rw [Target.afterFrame_eq erased f h.cnt]
  tx := by rw [Target.afterFrame_eq erased f h.cnt]

/-- A listed frame in PROG acts (TM5). -/
theorem Target.afterFrame_prog {t : Target} {f : Frame} {c : Instr} (erased : Byte) (hcnt : t.cnt = 0) (hmode : t.mode = .prog)
    (hd : decodeFrame f = .ok c) : t.afterFrame erased f =
      { ({ t.holding f with cnt := 3, tx := (t.holding f).answer3 } : Target).act erased c with cnt := 0, tx := some 0 } := by
  rw [Target.afterFrame_eq erased f hcnt, Target.frameDone]
  simp only [Target.holding_mode, Target.holding_b0, Target.holding_b1, Target.holding_b2, packFrame_bytes, hmode, hd]

/-- Port p is ready, and a reference target g on it stands between two frames. -/
structure ReadyChip (p : Port) (g : Target) (s : State) : Prop extends Ready p s where
  attached : (s.port p).attached = .chip g
  clk : (s.port p).clk ≠ ⟨.output, .high⟩
  between : g.Between

section
variable {p : Port} {g : Target} {s : State} {f : Frame} {c : Instr} (h : ReadyChip p g s)
include h

/-- What TRANSACT's frame exchange receives from the target and makes of it. -/
theorem ReadyChip.frameIn_chip :
    (∀ k : Fin 4, ∀ v, (g.afterBytes s.params.erasedByte f k.val).tx = some v →
      (s.start .transact).answerOf p f k.val = v) ∧
      (((s.start .transact).shiftFrame p f).port p).attached = .chip (g.afterFrame s.params.erasedByte f) :=
  (s.start .transact).frameIn_chip p f g h.between.toRested (by simpa using h.clk) (by simpa using h.attached)

/-- The frame a ready port receives from the target: R0 = 0x00, R1 = B0, R2 = B1, and R3 what the command is answered (TM3). -/
theorem ReadyChip.transactRun_result (hd : decodeFrame f = .ok c) : ∃ r3,
    (transactRun p c f s).result = .done (.frame (packFrame 0x00 (frameB0 f) (frameB1 f) r3)) ∧
      ∀ v, (g.answerTo c).onWire (frameB2 f) = some v → r3 = v := by
  obtain ⟨answers, -⟩ := h.frameIn_chip (f := f)
  obtain ⟨tx1, tx2, tx3, -⟩ := g.afterFrame_aligned s.params.erasedByte f h.between.cnt
  refine ⟨(s.start .transact).answerOf p f 3, ?_, fun v hv => answers 3 v ?_⟩
  · have a0 : (s.start .transact).answerOf p f 0 = 0x00 := answers 0 _ h.between.tx
    have a1 : (s.start .transact).answerOf p f 1 = frameB0 f := answers 1 _ tx1
    have a2 : (s.start .transact).answerOf p f 2 = frameB1 f := answers 2 _ tx2
    rw [(transactRun_sent p c f s).result, State.frameIn, a0, a1, a2]
  · exact tx3.trans ((Target.holding_answer3 h.between.listens hd).trans hv)

theorem ReadyChip.transactRun_attached :
    ((transactRun p c f s).port p).attached = .chip (g.afterFrame s.params.erasedByte f) := by
  obtain ⟨-, attached⟩ := h.frameIn_chip (f := f)
  exact (Machine.transactRun_attached p c f s).trans attached

/-- Once a command's settle is waited for, the port is ready for the next frame, and the target has taken the last one. -/
theorem ReadyChip.waited (n : BitVec 32) (hn : settleOf s.params c ≤ n.toNat) :
    ReadyChip p (g.afterFrame s.params.erasedByte f) (waitRun n (transactRun p c f s)) := by
  have attached := h.transactRun_attached (f := f) (c := c)
  have run := transactRun_enabled (h.modeOk c) f
  generalize transactRun p c f s = t at run attached
  have hport := waitRun_port n t
  refine ⟨⟨run.focus.trans h.focus, forall_port p ?_ ?_, ?_, ?_⟩, ?_, ?_, h.between.afterFrame _ f⟩ <;>
    rw [hport, PortState.wait]
  · rw [run.settle]; exact Nat.sub_eq_zero_of_le hn
  · rw [run.other, h.settled]; exact Nat.zero_sub _
  · exact run.framePhase.trans h.aligned
  · exact run.mode
  · exact attached
  · exact run.clk.trans_ne (by decide)

end

/-- The EEPROM after a WRITE_EE in PROG (TM5). -/
theorem Target.afterFrame_writeEe {t : Target} (erased a v : Byte) (hcnt : t.cnt = 0) (hmode : t.mode = .prog) :
    (t.afterFrame erased (packFrame 0xC0 0x00 a v)).mode = .prog ∧
      (t.afterFrame erased (packFrame 0xC0 0x00 a v)).ee = Memory.write t.ee a.toNat v := by
  rw [Target.afterFrame_prog erased hcnt hmode (decodeFrame_of_frameOf (i := .writeEe a v) rfl)]
  exact ⟨hmode, rfl⟩

/-- Settles O58: R0 to R2 are the bytes sent one place late, and R3 is decided before B3 arrives. -/
theorem referenceTargetEchoes : Obligations.ReferenceTargetEchoes := by
  intro p f c s g hready hd hclk hattached hmode hcnt hbit hrx hlatch htx
  have hchip : ReadyChip p g s := ⟨hready, hattached, by rw [hclk]; decide, ⟨hmode, hbit, hrx, hlatch⟩, hcnt, htx⟩
  obtain ⟨r3, hresult, hr3⟩ := hchip.transactRun_result hd
  refine ⟨r3, _, transactFrame_run f s p c hready.focus hready.settled hready.aligned hd (hready.modeOk c), hresult, ?_⟩
  rw [← Target.answerTo]
  cases hanswer : g.answerTo c with
  | echo => exact hr3 _ (by rw [hanswer]; rfl)
  | byte v => exact hr3 _ (by rw [hanswer]; rfl)
  | draw => exact Target.answerTo_draw hanswer

/-- Settles O60: the target the write leaves holds the byte, the wait makes the port ready again, and READ_EE is answered from
that EEPROM. -/
theorem referenceEepromReadsBack : Obligations.ReferenceEepromReadsBack := by
  intro p a v x n s g hinv hready hattached hmode hcnt hbit hrx hlatch htx hn
  obtain ⟨-, hclk, -, -⟩ := (PortState.driven_iff _).mp (hinv.driven p hready.focus)
  have hchip : ReadyChip p g s :=
    ⟨hready, hattached, by rw [hclk]; decide, ⟨by simp [hmode], hbit, hrx, hlatch⟩, hcnt, htx⟩
  have hmem := hinv.memories p
  rw [hattached] at hmem
  obtain ⟨-, -, hwf⟩ := hmem
  have hchip' := hchip.waited (f := packFrame 0xC0 0x00 a v) (c := .writeEe a v) n hn
  obtain ⟨hmode', hee⟩ := Target.afterFrame_writeEe s.params.erasedByte a v hcnt hmode
  obtain ⟨r3, hresult, hr3⟩ := hchip'.transactRun_result (decodeFrame_of_frameOf (i := .readEe x) rfl)
  have hbyte : r3 = if x = a then v else Memory.read g.ee x.toNat := by
    refine hr3 _ ?_
    rw [Target.answerTo, if_pos hmode', Target.data, hee, Memory.read_write _ hwf]
    simp only [TargetAnswer.onWire, BitVec.toNat_inj]
  have hwrite := hready.exec_run (c := .writeEe a v) rfl
  have hread := hchip'.exec_run (c := .readEe x) rfl
  refine ⟨_, ?_, hresult.trans ?_⟩
  · rw [execAll_next hwrite, execAll_next (exec_waitMs n _), execAll_next hread, execAll]
  · rw [hbyte, frameB0_pack, frameB1_pack]

end Sys2Proof.Machine
end

section
/-! SUPPORT. The Interface Multiplexer (42_multiplexer.md R170 to R174): FOCUS and ENTER_PROG_MODE run and meet their frames, the
echo is not checked, and every line action goes to the focused port. -/

namespace Sys2Proof.Machine

/-! ### FOCUS and ENTER_PROG_MODE run -/

/-- Settles O36: the check passes, and the body meets its frame. -/
theorem focusCompletes : Obligations.FocusCompletes := fun b s hs => ⟨_, execFocus_run b s hs, focusRun_focused b s⟩

/-- Settles O38: the checks pass, and the body meets its frame. -/
theorem enterCompletes : Obligations.EnterCompletes := fun p s hp hs =>
  ⟨_, _, execEnter_run s p hp hs, enterRun_entered p s⟩

/-! ### The acknowledgment (42_multiplexer.md R172) -/

/-- The 32 levels after the strobe are the frame ENTER_PROG_MODE receives, and the levels after those are left. -/
theorem enterBody_env (p : Port) (s : State) (r : Frame) (rest : List Bool)
    (h : (s.port p).attached = .env (frameBits r ++ rest)) :
    enterAnswer p s = r ∧ ((enterBody p s).port p).attached = .env rest := by
  have strobed : (((strobe p s).setPhase .enable).port p).attached = .env (frameBits r ++ rest) := by
    rw [State.setPhase_port, strobe_env p s (fun t ht => by rw [h] at ht; cases ht), h]
  obtain ⟨answer, left⟩ := State.frameIn_env _ p progEnFrame r rest strobed
  exact ⟨answer, by rw [enterBody, State.sendCommand_port_attached, left]⟩

/-- Settles O39: no byte of the frame received is looked at, and one frame is all that is sent. -/
theorem acknowledgmentUnchecked : Obligations.AcknowledgmentUnchecked := by
  intro p s r rest hp hs ha
  have run := enterRun_entered p s
  obtain ⟨answer, left⟩ := enterBody_env p (s.start .enterProgMode) r rest (by rw [State.start_port, ha])
  rw [answer] at run
  exact ⟨_, execEnter_run s p hp hs, run.result, run.mode, by rw [enterRun, State.complete_port, left], run.faults⟩

/-! ### FOCUS ends programming mode (42_multiplexer.md R174) -/

theorem Focused.settled {b : Port} {s t : State} (run : Focused b s t) (hs : ∀ q, (s.port q).settle = 0) :
    ∀ q, (t.port q).settle = 0 :=
  forall_port b (run.settle.trans (hs b)) (by rw [run.other, otherAfterFocus_settle, hs])

/-- ENTER_PROG_MODE leaves its port ready for any listed frame. -/
theorem Entered.ready {p : Port} {r : Frame} {s t : State} (run : Entered p r s t) (hp : s.focus = some p)
    (hs : ∀ q, (s.port q).settle = 0) : Ready p t where
  focus := run.focus.trans hp
  settled := forall_port p run.settle (by rw [run.other, hs])
  aligned := run.framePhase
  enabled := run.mode

/-- No command may be sent in IDLE (41_framer.md R122). -/
theorem modeOk_idle (c : Instr) : modeOk c .idle = false := by
  rw [← Bool.not_eq_true, modeOk_iff]
  rintro (h | ⟨-, h⟩) <;> cases h

/-- FOCUS turns a reference target off (TM2). -/
theorem focusRun_chip (b : Port) (s : State) (g : Target) (h : (s.port b).attached = .chip g) :
    ∃ g', ((focusRun b s).port b).attached = .chip g' ∧ g'.mode = .off :=
  ⟨_, by rw [focusRun, State.complete_port, focusBody_chip b _ g (by rw [State.start_port, h])], rfl⟩

/-- Settles O37: FOCUS leaves IDLE, where no command may be sent, a raw byte needs no PORT_MODE, and ENTER_PROG_MODE writes
ENABLE_SENT again. -/
theorem focusEndsProgMode : Obligations.FocusEndsProgMode := by
  intro b s hs
  have run := focusRun_focused b s
  have settled := run.settled hs
  refine ⟨_, execFocus_run b s hs, run.rst, focusRun_chip b s, fun f c hd => ?frame, fun out => ?exchange, ?enter⟩
  case frame =>
    obtain ⟨-, -, refused⟩ := modeRule b f c _ run.focus settled run.framePhase hd
    exact refused (by rw [run.mode, modeOk_idle])
  case exchange =>
    obtain ⟨_, u, hu, sent⟩ := exchangeCompletes b out _ run.focus settled
    exact ⟨u, hu, by rw [sent.result]; rfl⟩
  case enter =>
    obtain ⟨_, u, hu, entered⟩ := enterCompletes b _ run.focus settled
    exact ⟨u, hu, by rw [entered.result]; rfl, entered.ready run.focus settled⟩

/-! ### Where line actions go (42_multiplexer.md R173) -/

/-- The action drives or samples a line of the port `o` names, or is a wait. -/
def LineEvent.WorksOn (o : Option Port) : LineEvent → Prop
  | .drive x _ => o = some x.port
  | .sample p _ => o = some p
  | .release _ => False
  | .delayUs _ | .delayMs _ => True

section
variable (p : Port) (tHalf : Nat)

theorem bitWave_worksOn (out inp : Bool) : ∀ e ∈ bitWave p tHalf out inp, e.WorksOn (some p) := by
  simp [bitWave, LineEvent.WorksOn]

theorem byteWave_worksOn (out inp : Byte) : ∀ e ∈ byteWave p tHalf out inp, e.WorksOn (some p) := by
  refine List.forall_mem_append.mpr ⟨fun e he => ?_, by simp [LineEvent.WorksOn]⟩
  obtain ⟨b, -, hb⟩ := List.mem_flatMap.mp he
  exact bitWave_worksOn p tHalf b.1 b.2 e hb

theorem frameWave_worksOn (out inp : Frame) : ∀ e ∈ frameWave p tHalf out inp, e.WorksOn (some p) := by
  have byte := byteWave_worksOn p tHalf
  simp only [frameWave, List.forall_mem_append]
  exact ⟨⟨⟨byte _ _, byte _ _⟩, byte _ _⟩, byte _ _⟩

theorem strobeWave_worksOn (k : Config.Params) : ∀ e ∈ strobeWave p k, e.WorksOn (some p) := by
  simp [strobeWave, LineEvent.WorksOn]

end

/-- The action releases a line of port b, or under RELEASE one of the port `old` focused before. -/
def LineEvent.Releases (b : Port) (old : Option Port) (k : Config.Params) : LineEvent → Prop
  | .release x => x.port = b ∨ (k.unfocusedLines = .release ∧ old = some x.port)
  | .drive _ _ | .sample _ _ | .delayUs _ | .delayMs _ => False

theorem focusWave_worksOn_or_releases (b : Port) (old : Option Port) (k : Config.Params) :
    ∀ e ∈ focusWave b old k, e.WorksOn (some b) ∨ e.Releases b old k := by
  refine List.forall_mem_append.mpr ⟨?_, by simp [bindWave, LineEvent.WorksOn, LineEvent.Releases]⟩
  cases old with
  | none => nofun
  | some q =>
    dsimp only
    split
    · next hq => simp [releaseWave, LineEvent.Releases, hq.1]
    · nofun

/-- Only FOCUS and IDENTIFY move the focus. -/
theorem exec_focus {i : Instr} {s t : State} (h : exec i s = .next t) :
    t.focus = s.focus ∨ ∃ b, (i = .focus b ∨ i = .identify b) ∧ t.focus = some b := by
  cases exec_effect h with
  | raised _ run => exact .inl (by rw [run]; rfl)
  | sent _ _ _ _ _ _ _ _ _ _ run => exact .inl run.focus
  | exchanged _ _ _ _ _ _ run => exact .inl run.focus
  | focused b kind _ run => exact .inr ⟨b, .inl kind, run.focus⟩
  | entered _ _ _ _ _ run => exact .inl run.focus
  | identified b _ _ _ _ kind _ run => exact .inr ⟨b, .inr kind, run.focus⟩
  | paramsRead _ _ _ run => exact .inl run.focus
  | waited _ _ run => exact .inl run.focus

/-- Where an action of instruction i, from s to t, may go: to the port focused in t, but for the releases of a FOCUS or
IDENTIFY. -/
def LineEvent.Placed (i : Instr) (s t : State) (e : LineEvent) : Prop :=
  e.WorksOn t.focus ∨ ∃ b, (i = .focus b ∨ i = .identify b) ∧ t.focus = some b ∧ e.Releases b s.focus s.params

section
variable {i : Instr} {s t : State}

theorem LineEvent.WorksOn.placed {p : Port} {e : LineEvent} (h : e.WorksOn (some p)) (hf : t.focus = some p) :
    e.Placed i s t := .inl (by rwa [hf])

theorem focusWave_placed {b : Port} (hi : i = .focus b ∨ i = .identify b) (hf : t.focus = some b) :
    ∀ e ∈ focusWave b s.focus s.params, e.Placed i s t := fun e he =>
  (focusWave_worksOn_or_releases b _ _ e he).elim (·.placed hf) fun hr => .inr ⟨b, hi, hf, hr⟩

theorem exec_placed (h : exec i s = .next t) : ∀ e ∈ t.waveform, e.Placed i s t := by
  cases exec_effect h with
  | raised c run => rw [run]; nofun
  | sent p c f r _ focus _ _ _ _ run =>
    rw [run.wave]
    exact fun e he => (frameWave_worksOn p _ f r e he).placed (run.focus.trans focus)
  | exchanged p out inp _ focus _ run =>
    rw [run.wave]
    exact fun e he => (byteWave_worksOn p _ out inp e he).placed (run.focus.trans focus)
  | focused b kind _ run =>
    rw [run.wave]
    exact focusWave_placed (.inl kind) run.focus
  | entered p r _ focus _ run =>
    rw [run.wave, List.forall_mem_append]
    exact ⟨fun e he => (strobeWave_worksOn p _ e he).placed (run.focus.trans focus),
      fun e he => (frameWave_worksOn p _ _ r e he).placed (run.focus.trans focus)⟩
  | identified b r0 r1 r2 r3 kind _ run =>
    have strobe : ∀ e ∈ strobeWave b s.params, e.Placed i s t := fun e he => (strobeWave_worksOn b _ e he).placed run.focus
    have frame : ∀ f r, ∀ e ∈ frameWave b s.params.tHalfUs f r, e.Placed i s t := fun f r e he =>
      (frameWave_worksOn b _ f r e he).placed run.focus
    simp only [run.wave, List.forall_mem_append]
    exact ⟨⟨⟨⟨⟨focusWave_placed (.inr kind) run.focus, strobe⟩, frame _ r0⟩, frame _ r1⟩, frame _ r2⟩, frame _ r3⟩
  | paramsRead b _ _ run => rw [run.wave]; nofun
  | waited n _ run => simp [run.wave, LineEvent.Placed, LineEvent.WorksOn]

end

/-- Settles O42: only FOCUS and IDENTIFY move the focus, and what an operation does off the focused port is a release. -/
theorem onePortAtATime : Obligations.OnePortAtATime := by
  refine fun i s t h => ⟨exec_focus h, fun e he => ?_⟩
  rcases exec_placed h e he with hw | ⟨b, hi, hb, hr⟩
  · cases e with
    | release x => exact hw.elim
    | _ => exact hw
  · cases e with
    | release x => exact ⟨⟨b, hi⟩, hr.imp_left fun hx => by rw [hb, hx]⟩
    | _ => exact hr.elim

end Sys2Proof.Machine
end

section
/-! SUPPORT. The Chip Identifier (43_identifier.md R190 to R196): LOOKUP and the signature it takes, what an IDENTIFY does in terms
of the three bytes it receives, and the record READ_PARAMS returns. -/

namespace Sys2Proof.Machine

/-! ### LOOKUP (43_identifier.md R192) -/

theorem mem_sigTab_iff (row : Config.DeviceParams) :
    row ∈ Config.sigTab ↔ row = ⟨0x0C931E, 32, 128, 256⟩ ∨ row = ⟨0x07921E, 32, 64, 256⟩ := by
  simp [Config.sigTab]

theorem lookup_eq_some_iff (sig : Sig) (row : Config.DeviceParams) :
    lookup sig = some row ↔ row ∈ Config.sigTab ∧ row.sig = sig := by
  constructor
  · exact fun h => ⟨mem_sigTab_of_lookup h, by simpa using List.find?_some h⟩
  · rintro ⟨hrow, rfl⟩
    obtain rfl | rfl := (mem_sigTab_iff row).mp hrow
    · rfl
    · rfl

theorem lookup_eq_none_iff (sig : Sig) : lookup sig = none ↔ ∀ row ∈ Config.sigTab, row.sig ≠ sig := by
  simp [lookup]

/-- Settles O45: the two rows have different signatures, and LOOKUP compares all 24 bits. -/
theorem lookupExact : Obligations.LookupExact := by
  refine ⟨lookup_eq_some_iff, rfl, rfl, fun sig h84 h44 => (lookup_eq_none_iff sig).mpr fun row hrow hsig => ?_⟩
  obtain rfl | rfl := (mem_sigTab_iff row).mp hrow
  · exact h84 hsig.symm
  · exact h44 hsig.symm

/-! ### The signature (43_identifier.md R191) -/

theorem sigOf_toNat (s0 s1 s2 : Byte) :
    (sigOf s0 s1 s2).toNat = s2.toNat * 2 ^ 16 + s1.toNat * 2 ^ 8 + s0.toNat := by
  have := s0.isLt
  have := s1.isLt
  have := s2.isLt
  simp only [sigOf, BitVec.toNat_add, BitVec.toNat_shiftLeft, BitVec.toNat_setWidth, Nat.shiftLeft_eq]
  omega

theorem assembleSig_toNat (s0 s1 s2 : Byte) :
    (assembleSig s0 s1 s2).toNat = s2.toNat * 2 ^ 16 + s1.toNat * 2 ^ 8 + s0.toNat := by
  rw [assembleSig, BitVec.toNat_append, BitVec.toNat_append, ← Nat.shiftLeft_add_eq_or_of_lt s1.isLt,
    ← Nat.shiftLeft_add_eq_or_of_lt s0.isLt]
  simp only [Nat.shiftLeft_eq]
  omega

theorem assembleSig_eq_sigOf (s0 s1 s2 : Byte) : assembleSig s0 s1 s2 = sigOf s0 s1 s2 :=
  BitVec.eq_of_toNat_eq ((assembleSig_toNat s0 s1 s2).trans (sigOf_toNat s0 s1 s2).symm)

/-- A signature has one byte stream. -/
theorem sigOf_inj {s0 s1 s2 u0 u1 u2 : Byte} :
    sigOf s0 s1 s2 = sigOf u0 u1 u2 ↔ s0 = u0 ∧ s1 = u1 ∧ s2 = u2 := by
  simp only [← BitVec.toNat_inj, sigOf_toNat]
  have := s0.isLt
  have := s1.isLt
  have := u0.isLt
  have := u1.isLt
  omega

/-- Settles O46: both ways of assembling give the same number, and a signature has one byte stream. -/
theorem signatureAssembly : Obligations.SignatureAssembly :=
  ⟨assembleSig_eq_sigOf, fun _ _ _ => sigOf_inj (u0 := 0x1E) (u1 := 0x93) (u2 := 0x0C),
    fun _ _ _ => sigOf_inj (u0 := 0x1E) (u1 := 0x92) (u2 := 0x07)⟩

/-! ### The run of IDENTIFY (43_identifier.md R190) -/

theorem identifyFound_eq (b : Port) (s : State) : identifyFound b s =
    lookup (sigOf (frameB3 (identifyAnswer b s 0)) (frameB3 (identifyAnswer b s 1)) (frameB3 (identifyAnswer b s 2))) := by
  rw [identifyFound, assembleSig_eq_sigOf]

/-- The lookup and the record touch nothing that is attached. -/
theorem identifyRun_attached (b : Port) (s : State) :
    ((identifyRun b s).port b).attached = ((identifyAfter b s 3).port b).attached := by
  simp [identifyRun_eq, identifyEnd]

/-- Settles O47: the check passes, and the body meets its frame. -/
theorem identifyCompletes : Obligations.IdentifyCompletes := by
  intro b s hs
  have run := identifyRun_identified b s
  rw [identifyFound_eq] at run
  exact ⟨_, _, _, _, _, execIdentify_run b s hs, run⟩

/-- IDENTIFY faults with a settle owed, or it runs in full. -/
theorem exec_identify_cases {b : Port} {s t : State} (h : exec (.identify b) s = .next t) : t = s.raise .settle ∨
    ∃ r0 r1 r2 r3, Identified b r0 r1 r2 r3 (lookup (sigOf (frameB3 r1) (frameB3 r2) (frameB3 r3))) s t := by
  rcases execIdentify_cases b s with hfault | ⟨hs, -⟩
  · exact .inl (Host.Outcome.next.inj (h.symm.trans hfault))
  · obtain ⟨r0, r1, r2, r3, u, hu, run⟩ := identifyCompletes b s hs
    obtain rfl := Host.Outcome.next.inj (h.symm.trans hu)
    exact .inr ⟨r0, r1, r2, r3, run⟩

/-! ### The bytes IDENTIFY receives (40_bit_channel.md R103) -/

/-- Where the samples are those of whole bytes, the k-th byte received is the k-th of them. -/
theorem receivedByte_of_samplesOn {p : Port} {w : List LineEvent} {l : List Byte} (hw : samplesOn p w = l.flatMap wireBits)
    {k : Nat} {v : Byte} (hk : l[k]? = some v) : receivedByte p w k = v := by
  rw [receivedByte, hw]
  clear hw
  induction l generalizing k with
  | nil => cases hk
  | cons a l ih =>
    rw [List.flatMap_cons]
    cases k with
    | zero =>
      obtain rfl := Option.some.inj hk
      exact (congrArg byteOfSamples (List.take_left' (wireBits_length a))).trans (byteOfSamples_wireBits a)
    | succ k =>
      have skip : (wireBits a ++ l.flatMap wireBits).drop (8 * (k + 1)) = (l.flatMap wireBits).drop (8 * k) := by
        rw [Nat.mul_succ, Nat.add_comm, ← List.drop_drop, List.drop_left' (wireBits_length a)]
      rw [skip]
      exact ih hk

theorem Clocks.samplesOn_eq_nil {o : Option Port} {w : List LineEvent} (h : Clocks o 0 w) (q : Port) : samplesOn q w = [] := by
  obtain ⟨hlen, -⟩ := h q
  rwa [ite_self, List.length_eq_zero_iff] at hlen

section
variable {b : Port} {r0 r1 r2 r3 : Frame} {found : Option Config.DeviceParams} {s t : State}
  (run : Identified b r0 r1 r2 r3 found s t)
include run

/-- FOCUS and the strobe sample nothing, so the samples of an IDENTIFY are those of its four frames. -/
theorem Identified.samplesOn_waveform : samplesOn b t.waveform = [frameB0 r0, frameB1 r0, frameB2 r0, frameB3 r0,
    frameB0 r1, frameB1 r1, frameB2 r1, frameB3 r1, frameB0 r2, frameB1 r2, frameB2 r2, frameB3 r2,
    frameB0 r3, frameB1 r3, frameB2 r3, frameB3 r3].flatMap wireBits := by
  have focus := (clocks_focusWave none b s.focus s.params).samplesOn_eq_nil b
  have strobe := (clocks_strobeWave none b s.params).samplesOn_eq_nil b
  simp only [run.wave, samplesOn_append, focus, strobe, samplesOn_frameWave, frameBits, List.flatMap_cons, List.flatMap_nil,
    List.append_assoc, List.nil_append, List.append_nil]

/-- Bytes 7, 11 and 15 are the R3 bytes of READ_SIG 0, 1 and 2. -/
theorem Identified.receivedByte_waveform : receivedByte b t.waveform 7 = frameB3 r1 ∧
    receivedByte b t.waveform 11 = frameB3 r2 ∧ receivedByte b t.waveform 15 = frameB3 r3 :=
  ⟨receivedByte_of_samplesOn run.samplesOn_waveform rfl, receivedByte_of_samplesOn run.samplesOn_waveform rfl,
    receivedByte_of_samplesOn run.samplesOn_waveform rfl⟩

end

/-- The signature IDENTIFY b received, read off its line record (43_identifier.md R190, R191). -/
def receivedSig (b : Port) (t : State) : Sig :=
  sigOf (receivedByte b t.waveform 7) (receivedByte b t.waveform 11) (receivedByte b t.waveform 15)

/-- An IDENTIFY that does not fault looks up the signature it received. -/
theorem exec_identify_run {b : Port} {s t : State} (h : exec (.identify b) s = .next t) (hok : t.result.status ≠ .fault) :
    ∃ r0 r1 r2 r3, Identified b r0 r1 r2 r3 (lookup (receivedSig b t)) s t := by
  rcases exec_identify_cases h with rfl | ⟨r0, r1, r2, r3, run⟩
  · exact absurd rfl hok
  · obtain ⟨h7, h11, h15⟩ := run.receivedByte_waveform
    exact ⟨r0, r1, r2, r3, by rwa [receivedSig, h7, h11, h15]⟩

/-- An IDENTIFY that returned OK found a row, returned it and wrote it (43_identifier.md R193). -/
theorem exec_identify_ok {b : Port} {s t : State} (h : exec (.identify b) s = .next t) (hok : t.result.status = .ok) :
    ∃ row, lookup (receivedSig b t) = some row ∧ t.result = .done (.params row) ∧ (t.port b).chip = row ∧
      (t.port b).written = true := by
  obtain ⟨r0, r1, r2, r3, run⟩ := exec_identify_run h (by rw [hok]; decide)
  cases hfound : lookup (receivedSig b t) with
  | none =>
    rw [run.result, hfound] at hok
    cases hok
  | some row =>
    rw [hfound] at run
    exact ⟨row, rfl, run.result, run.chip, run.written⟩

/-- Settles O49: the result and the record are functions of the row found, and the row found of the three bytes. -/
theorem identifierIsPure : Obligations.IdentifierIsPure := by
  intro b s s' t t' h h' hok hok' h7 h11 h15
  obtain ⟨_, _, _, _, run⟩ := exec_identify_run h hok
  obtain ⟨_, _, _, _, run'⟩ := exec_identify_run h' hok'
  have hsig : receivedSig b t = receivedSig b t' := by rw [receivedSig, receivedSig, h7, h11, h15]
  rw [hsig] at run
  exact ⟨run.result.trans run'.result.symm, fun hchip => by rw [run.chip, run'.chip, hchip]⟩

/-- Settles O50: an OK comes with the row found, and any other change of a record is ruled out by what an operation does to
records. -/
theorem identifyWritesRecord : Obligations.IdentifyWritesRecord := by
  intro b s t h
  refine ⟨fun hok => ?found, fun hno => ?notFound, ?other⟩
  case found =>
    obtain ⟨row, hrow, hresult, hchip, hwritten⟩ := exec_identify_ok h hok
    obtain ⟨hmem, hsig⟩ := (lookup_eq_some_iff _ _).mp hrow
    exact ⟨row, hmem, by rw [hresult]; rfl, hchip, hwritten, hsig⟩
  case notFound =>
    rcases exec_record h b with hkept | ⟨-, -, hresult, -⟩
    · exact hkept
    · exact absurd (by rw [hresult]; rfl) hno
  case other =>
    rcases exec_record h b.other with hkept | ⟨hi, -⟩
    · exact hkept
    · exact absurd (Instr.identify.inj hi) (ne_other b)

/-! ### READ_PARAMS (43_identifier.md R194) -/

/-- Settles O52: the one check is whether the record was written. -/
theorem readParamsCompletes : Obligations.ReadParamsCompletes := by
  refine fun b s => ⟨fun hw => ⟨_, execReadParams_run b s hw, paramsRun_read b s⟩, fun hw => ?_⟩
  rcases execReadParams_cases b s with hfault | ⟨hw', -⟩
  · exact ⟨_, hfault, s.raise_faulted _⟩
  · rw [hw] at hw'
    cases hw'

/-- Operations that are no IDENTIFY b leave the record of port b. -/
theorem execAll_record {b : Port} {l : List Instr} (hl : ∀ i ∈ l, i ≠ .identify b) {s t : State} (h : execAll l s = some t) :
    (t.port b).chip = (s.port b).chip ∧ (t.port b).written = (s.port b).written := by
  induction l generalizing s with
  | nil =>
    obtain rfl := Option.some.inj h
    exact ⟨rfl, rfl⟩
  | cons i l ih =>
    obtain ⟨hi, hl⟩ := List.forall_mem_cons.mp hl
    obtain ⟨u, hu⟩ := exec_next i s
    rw [execAll_next hu] at h
    obtain ⟨hchip, hwritten⟩ := ih hl h
    rcases exec_record hu b with ⟨hc, hw⟩ | ⟨hid, -⟩
    · exact ⟨hchip.trans hc, hwritten.trans hw⟩
    · exact absurd hid hi

/-- Settles O53: the row is written with the result, and no operation but an IDENTIFY b touches it. -/
theorem parametersPersist : Obligations.ParametersPersist := by
  intro b s t u l h hok hl hu
  obtain ⟨row, -, hresult, hchip, hwritten⟩ := exec_identify_ok h hok
  obtain ⟨hc, hw⟩ := execAll_record hl hu
  obtain ⟨readable, -⟩ := readParamsCompletes b u
  obtain ⟨v, hv, read⟩ := readable (hw.trans hwritten)
  exact ⟨v, hv, by rw [read.result, hc, hchip, hresult]⟩

/-! ### Levels the environment foretells -/

theorem readSigBody_env (b : Port) (n : Fin 3) (s : State) (r : Frame) (rest : List Bool)
    (h : (s.port b).attached = .env (frameBits r ++ rest)) :
    readSigAnswer b n s = r ∧ ((readSigBody b n s).port b).attached = .env rest := by
  obtain ⟨answer, left⟩ := State.frameIn_env (s.setPhase (.sig n)) b (readSigFrame (BitVec.ofNat 8 n.val)) r rest
    (by rw [State.setPhase_port, h])
  exact ⟨answer, by rw [readSigBody, State.sendCommand_port_attached, left]⟩

/-- The levels foretold are the four frames IDENTIFY receives. -/
theorem identifyRun_env (b : Port) (s : State) (r0 r1 r2 r3 : Frame) (rest : List Bool) (h : (s.port b).attached =
    .env (frameBits r0 ++ frameBits r1 ++ frameBits r2 ++ frameBits r3 ++ rest)) :
    identifyFound b s = lookup (sigOf (frameB3 r1) (frameB3 r2) (frameB3 r3)) ∧
      ((identifyRun b s).port b).attached = .env rest := by
  have focused : ((identifyFocused b s).port b).attached =
      .env (frameBits r0 ++ (frameBits r1 ++ (frameBits r2 ++ (frameBits r3 ++ rest)))) := by
    simp only [List.append_assoc] at h
    rw [identifyFocused, State.setPhase_port, focusBody_env b _ (by simp [h]), State.setPhase_port, State.start_port, h]
  obtain ⟨-, a0⟩ := enterBody_env b (identifyFocused b s) r0 _ focused
  obtain ⟨answer0, a1⟩ := readSigBody_env b 0 (identifyAfter b s 0) r1 _ a0
  obtain ⟨answer1, a2⟩ := readSigBody_env b 1 (identifyAfter b s 1) r2 _ a1
  obtain ⟨answer2, a3⟩ := readSigBody_env b 2 (identifyAfter b s 2) r3 _ a2
  constructor
  · rw [← answer0, ← answer1, ← answer2]
    exact identifyFound_eq b s
  · rw [identifyRun_attached]
    exact a3

/-- Settles O48: the row of the signature is the one found, and where no row has it none is. -/
theorem identificationExact : Obligations.IdentificationExact := by
  intro b s r0 r1 r2 r3 rest hs ha
  obtain ⟨found, left⟩ := identifyRun_env b s r0 r1 r2 r3 rest ha
  have run := identifyRun_identified b s
  refine ⟨_, execIdentify_run b s hs, left, fun sig hsig => ⟨fun row hrow hr => ?found, fun hnone => ?absent⟩⟩
  case found =>
    have hfound : identifyFound b s = some row := by
      rw [found, lookup_eq_some_iff]
      exact ⟨hrow, hr.trans hsig⟩
    rw [hfound] at run
    exact ⟨run.result, run.chip⟩
  case absent =>
    have hfound : identifyFound b s = none := by
      rw [found, lookup_eq_none_iff]
      exact fun row hrow hr => hnone row hrow (hr.trans hsig.symm)
    rw [hfound] at run
    exact ⟨run.result, run.chip⟩

end Sys2Proof.Machine
end

section
/-! SUPPORT. The reference target behind IDENTIFY (95_test_vectors.md TM2 to TM5, informative; log 8): the strobe and PROG_EN
bring it to programming mode, and each READ_SIG is answered by a byte of its signature. -/

namespace Sys2Proof.Machine

/-! ### What a frame makes of the target -/

/-- The n-th signature byte of a target. -/
def Target.sigByte (t : Target) : Fin 3 → Byte
  | 0 => t.sig0
  | 1 => t.sig1
  | 2 => t.sig2

theorem Target.data_readSig (t : Target) (n : Fin 3) : t.data (.readSig (BitVec.ofNat 8 n.val)) = .byte (t.sigByte n) := by
  fin_cases n <;> rfl

theorem Target.sigByte_congr {t u : Target} (h0 : t.sig0 = u.sig0) (h1 : t.sig1 = u.sig1) (h2 : t.sig2 = u.sig2) :
    t.sigByte = u.sigByte := by
  funext n
  fin_cases n
  exacts [h0, h1, h2]

/-- The target listens in programming mode, between two frames, and has signature `sig`. -/
structure Target.Answers (sig : Fin 3 → Byte) (t : Target) : Prop extends Target.Between t where
  prog : t.mode = .prog
  sigByte : t.sigByte = sig

theorem decodeFrame_readSigFrame (n : Byte) : decodeFrame (readSigFrame n) = .ok (.readSig n) :=
  decodeFrame_of_frameOf (i := .readSig n) rfl

theorem decodeFrame_progEnFrame : decodeFrame progEnFrame = .ok .progEn := decodeFrame_of_frameOf (i := .progEn) rfl

theorem Target.enterSync_between (t : Target) : t.enterSync.Between where
  toRested := t.enterSync_rested.1
  cnt := t.enterSync_rested.2
  tx := rfl

/-- PROG_EN after the strobe brings the target to programming mode (TM4). -/
theorem Target.answers_of_progEn (erased : Byte) (t : Target) :
    (t.enterSync.afterFrame erased progEnFrame).Answers t.sigByte := by
  have between := t.enterSync_between
  have done : t.enterSync.afterFrame erased progEnFrame =
      { t.enterSync.holding progEnFrame with mode := .prog, cnt := 0, tx := some 0 } := by
    have hd := decodeFrame_progEnFrame
    rw [← packFrame_bytes progEnFrame] at hd
    rw [Target.afterFrame_eq erased _ between.cnt, Target.frameDone]
    simp only [Target.holding_mode, Target.holding_b0, Target.holding_b1, Target.holding_b2, hd, Target.enterSync, if_true]
  refine ⟨between.afterFrame erased progEnFrame, ?_, ?_⟩
  · rw [done]
  · rw [done]
    exact Target.sigByte_congr rfl rfl rfl

/-- A READ_SIG changes nothing a later one is answered from. -/
theorem Target.Answers.afterFrame {sig : Fin 3 → Byte} {t : Target} (h : t.Answers sig) (erased n : Byte) :
    (t.afterFrame erased (readSigFrame n)).Answers sig := by
  have done := Target.afterFrame_prog erased h.cnt h.prog (decodeFrame_readSigFrame n)
  refine ⟨h.toBetween.afterFrame erased _, ?_, ?_⟩
  · rw [done]
    exact h.prog
  · rw [done, ← h.sigByte]
    exact Target.sigByte_congr rfl rfl rfl

/-! ### The frames of IDENTIFY -/

/-- A reference target on port b answers with signature `sig`, and CLK is not high. -/
structure AnswersOn (b : Port) (sig : Fin 3 → Byte) (s : State) : Prop where
  clk : (s.port b).clk ≠ ⟨.output, .high⟩
  target : ∃ t, (s.port b).attached = .chip t ∧ t.Answers sig

theorem enterBody_answersOn {b : Port} {s : State} {t : Target} (hclk : (s.port b).clk ≠ ⟨.output, .high⟩)
    (ha : (s.port b).attached = .chip t) : AnswersOn b t.sigByte (enterBody b s) := by
  obtain ⟨-, left⟩ := State.frameIn_chip ((strobe b s).setPhase .enable) b progEnFrame t.enterSync t.enterSync_rested.1
    (by simpa using hclk) (by rw [State.setPhase_port, strobe_chip b s t ha])
  refine ⟨by simp, _, ?_, t.answers_of_progEn s.params.erasedByte⟩
  rw [enterBody, State.sendCommand_port_attached, left, State.setPhase_params, strobe_params]

/-- READ_SIG n receives byte n of the signature in R3, and the target stands as before. -/
theorem AnswersOn.readSigBody {b : Port} {sig : Fin 3 → Byte} {s : State} (h : AnswersOn b sig s) (n : Fin 3) :
    frameB3 (readSigAnswer b n s) = sig n ∧ AnswersOn b sig (readSigBody b n s) := by
  obtain ⟨hclk, t, ha, ht⟩ := h
  obtain ⟨answers, left⟩ := State.frameIn_chip (s.setPhase (.sig n)) b (readSigFrame (BitVec.ofNat 8 n.val)) t ht.toRested
    (by simpa using hclk) (by simpa using ha)
  constructor
  · obtain ⟨-, -, tx3, -⟩ :=
      t.afterFrame_aligned (s.setPhase (.sig n)).params.erasedByte (readSigFrame (BitVec.ofNat 8 n.val)) ht.cnt
    rw [Target.holding_answer3 ht.listens (decodeFrame_readSigFrame _), Target.answerTo, if_pos ht.prog,
      Target.data_readSig, ht.sigByte] at tx3
    rw [readSigAnswer, State.frameIn, frameB3_pack]
    exact answers 3 _ tx3
  · refine ⟨by simp, _, ?_, ht.afterFrame (s.setPhase (.sig n)).params.erasedByte (BitVec.ofNat 8 n.val)⟩
    rw [Machine.readSigBody, State.sendCommand_port_attached, left]

/-- From FOCUS on the target answers with its signature, whatever was left in it before. -/
theorem identifyAfter_answersOn {b : Port} {s : State} {g : Target} (ha : (s.port b).attached = .chip g)
    (hclk : (s.port b).clk ≠ ⟨.output, .high⟩) (k : Nat) : AnswersOn b g.sigByte (identifyAfter b s k) := by
  induction k with
  | zero =>
    have focused : ((identifyFocused b s).port b).attached = .chip { g with mode := .off } := by
      rw [identifyFocused, State.setPhase_port,
        focusBody_chip b _ g (by rw [State.setPhase_port, State.start_port, ha]), State.setPhase_port, State.start_port,
        Target.settleClk, if_neg hclk]
    have sigByte : ({ g with mode := .off } : Target).sigByte = g.sigByte := Target.sigByte_congr rfl rfl rfl
    rw [← sigByte]
    exact enterBody_answersOn (by simp [identifyFocused]) focused
  | succ k ih => exact (ih.readSigBody (Fin.ofNat 3 k)).2

/-- Settles O59: the three bytes received are those of the target's signature, and the target stays in programming mode. -/
theorem referenceTargetIdentified : Obligations.ReferenceTargetIdentified := by
  intro b s g hs ha hclk
  have answers := identifyAfter_answersOn ha hclk
  have answer : ∀ n : Fin 3, frameB3 (identifyAnswer b s n) = g.sigByte n := fun n => ((answers n.val).readSigBody n).1
  have found : identifyFound b s = lookup (sigOf g.sig0 g.sig1 g.sig2) := by
    rw [identifyFound_eq, answer, answer, answer]
    rfl
  obtain ⟨-, g', ha', hg'⟩ := answers 3
  have result := (identifyRun_identified b s).result
  rw [found] at result
  refine ⟨_, g', execIdentify_run b s hs, (identifyRun_attached b s).trans ha', hg'.prog, fun row hrow => ?_, fun hnone => ?_⟩
  · rw [result, hrow]
    rfl
  · rw [result, hnone]
    rfl

end Sys2Proof.Machine
end

section
/-! SUPPORT. Which fault an operation reports (60_exceptions.md R211 to R222): the first that applies in the order of R218; where none
applies it runs in full. -/

namespace Sys2Proof.Machine

/-! ### The first fault that applies -/

/-- No fault that comes before number n in the order of R218 applies. -/
def NoFaultBefore (n : Nat) (i : Instr) (s : State) : Prop := ∀ d : FaultCode, d.number < n → ¬ faultApplies i s d

/-- c applies, and no fault before it in the order of R218 does. -/
structure FirstFault (c : FaultCode) (i : Instr) (s : State) : Prop where
  applies : faultApplies i s c
  earlier : NoFaultBefore c.number i s

section
variable {i : Instr} {s : State} {c : FaultCode}

/-- A check that passes leads to the one after it. -/
theorem NoFaultBefore.pass (h : NoFaultBefore c.number i s) (hc : ¬ faultApplies i s c) :
    NoFaultBefore (c.number + 1) i s := by
  intro d hd
  rcases Nat.lt_succ_iff_lt_or_eq.mp hd with hlt | heq
  · exact h d hlt
  · rwa [FaultCode.number_injective heq]

theorem FirstFault.le (h : FirstFault c i s) {d : FaultCode} (hd : faultApplies i s d) : c.number ≤ d.number :=
  Nat.le_of_not_lt fun hlt => h.earlier d hlt hd

theorem FirstFault.eq_of_least (h : FirstFault c i s) {d : FaultCode} (hd : faultApplies i s d)
    (least : ∀ e, faultApplies i s e → d.number ≤ e.number) : c = d :=
  FaultCode.number_injective (Nat.le_antisymm (h.le hd) (least c h.applies))

/-! ### The checks in their order -/

/-- The word is legal, so it is no bad request. -/
theorem noFault_before_noFocus : NoFaultBefore FaultCode.noFocus.number i s := by
  intro d hd
  cases d with
  | badReq => exact id
  | _ => exact absurd hd (by decide)

theorem noFault_before_settle (hf : needsFocus i = true → s.focus ≠ none) : NoFaultBefore FaultCode.settle.number i s :=
  noFault_before_noFocus.pass fun h => hf h.1 h.2

theorem noFault_before_misaligned (hf : needsFocus i = true → s.focus ≠ none) (hs : ∀ q, (s.port q).settle = 0) :
    NoFaultBefore FaultCode.misaligned.number i s :=
  (noFault_before_settle hf).pass fun ⟨_, q, hq⟩ => hq.ne' (hs q)

section
variable {f : Frame} {k : Instr} {p : Port} (hi : frameSent i = some f) (hp : s.focus = some p)
  (hs : ∀ q, (s.port q).settle = 0) (hz : (s.port p).framePhase = 0) (hd : decodeFrame f = .ok k)
  (hm : modeOk k (s.port p).mode = true)

include hp in
theorem focused_of_eq_some : needsFocus i = true → s.focus ≠ none := fun _ => by rw [hp]; nofun

include hp hs hz in
theorem noFault_before_unlisted : NoFaultBefore FaultCode.unlisted.number i s := by
  refine (noFault_before_misaligned (focused_of_eq_some hp) hs).pass ?_
  rintro ⟨_, q, -, hq, hz'⟩
  obtain rfl := Option.some.inj (hp.symm.trans hq)
  exact hz' hz

include hi hp hs hz hd in
theorem noFault_before_notEnabled : NoFaultBefore FaultCode.notEnabled.number i s := by
  refine (noFault_before_unlisted hp hs hz).pass ?_
  rintro ⟨g, hg, hl⟩
  obtain rfl := Option.some.inj (hi.symm.trans hg)
  exact hl k hd

include hi hp hs hz hd hm in
/-- A frame whose checks all pass has no fault. -/
theorem noFault_of_frame : ∀ c, ¬ faultApplies i s c := by
  have before : NoFaultBefore FaultCode.unidentified.number i s := by
    refine (noFault_before_notEnabled hi hp hs hz hd).pass ?_
    rintro ⟨g, q, k', hg, hq, hd', hm'⟩
    obtain rfl := Option.some.inj (hi.symm.trans hg)
    obtain rfl := Option.some.inj (hp.symm.trans hq)
    obtain rfl := Except.ok.inj (hd.symm.trans hd')
    rw [hm] at hm'
    cases hm'
  intro c
  cases c with
  | unidentified => rintro ⟨b, rfl, -⟩; cases hi
  | _ => exact before _ (by decide)

end

/-- An operation that sends no frame and reads no record has no fault after `F_SETTLE`. -/
theorem noFault_of_no_frame (hi : frameSent i = none) (hr : ∀ b, i ≠ .readParams b)
    (hf : needsFocus i = true → s.focus ≠ none) (hs : ∀ q, (s.port q).settle = 0) : ∀ c, ¬ faultApplies i s c := by
  intro c
  cases c with
  | badReq | noFocus | settle => exact noFault_before_misaligned hf hs _ (by decide)
  | misaligned | unlisted | notEnabled => simp [faultApplies, hi]
  | unidentified => exact fun ⟨b, hb, _⟩ => hr b hb

/-- The one fault READ_PARAMS can have (60_exceptions.md R214). -/
theorem faultApplies_readParams_iff (b : Port) :
    faultApplies (.readParams b) s c ↔ c = .unidentified ∧ (s.port b).written = false := by
  cases c <;> simp [faultApplies, needsFocus, drivesLines, frameSent, frameOf]

/-- WAIT_MS cannot fault (41_framer.md R140). -/
theorem not_faultApplies_waitMs (n : BitVec 32) : ¬ faultApplies (.waitMs n) s c := by
  cases c <;> simp [faultApplies, needsFocus, drivesLines, frameSent, frameOf]

/-! ### The causes, each where no earlier one applies -/

theorem FirstFault.noFocus (hn : needsFocus i = true) (hf : s.focus = none) : FirstFault .noFocus i s :=
  ⟨⟨hn, hf⟩, noFault_before_noFocus⟩

theorem FirstFault.settle (hl : drivesLines i = true) (hf : needsFocus i = true → s.focus ≠ none)
    (hs : ∃ q, 0 < (s.port q).settle) : FirstFault .settle i s :=
  ⟨⟨hl, hs⟩, noFault_before_settle hf⟩

theorem FirstFault.unidentified {b : Port} (hw : (s.port b).written = false) :
    FirstFault .unidentified (.readParams b) s where
  applies := ⟨b, rfl, hw⟩
  earlier d hd h := by
    obtain ⟨rfl, -⟩ := (faultApplies_readParams_iff b).mp h
    exact Nat.lt_irrefl _ hd

section
variable {f : Frame} {p : Port} (hi : frameSent i = some f) (hp : s.focus = some p) (hs : ∀ q, (s.port q).settle = 0)
include hi hp hs

theorem FirstFault.misaligned (hz : (s.port p).framePhase ≠ 0) : FirstFault .misaligned i s :=
  ⟨⟨f, p, hi, hp, hz⟩, noFault_before_misaligned (focused_of_eq_some hp) hs⟩

theorem FirstFault.unlisted (hz : (s.port p).framePhase = 0) (hd : ∀ k, decodeFrame f ≠ .ok k) :
    FirstFault .unlisted i s :=
  ⟨⟨f, hi, hd⟩, noFault_before_unlisted hp hs hz⟩

theorem FirstFault.notEnabled {k : Instr} (hz : (s.port p).framePhase = 0) (hd : decodeFrame f = .ok k)
    (hm : modeOk k (s.port p).mode = false) : FirstFault .notEnabled i s :=
  ⟨⟨f, p, k, hi, hp, hd, hm⟩, noFault_before_notEnabled hi hp hs hz hd⟩

end

/-! ### What each operation's checks report -/

/-- The two checks of EXCHANGE and of ENTER_PROG_MODE (40_bit_channel.md R100, 42_multiplexer.md R171). -/
theorem firstFault_of_exchangeFault (hn : needsFocus i = true) (hl : drivesLines i = true) (h : exchangeFault s = some c) :
    FirstFault c i s := by
  rw [exchangeFault_eq] at h
  cases hp : s.focus with
  | none =>
    obtain rfl : FaultCode.noFocus = c := by simpa [hp] using h
    exact .noFocus hn hp
  | some p =>
    obtain ⟨hs, rfl⟩ : s.settleOwed = true ∧ FaultCode.settle = c := by simpa [hp] using h
    exact .settle hl (focused_of_eq_some hp) (s.settleOwed_iff.mp hs)

theorem needsFocus_and_drivesLines_of_frameSent {f : Frame} (h : frameSent i = some f) :
    needsFocus i = true ∧ drivesLines i = true := by
  cases i with
  | exchange | focus | enterProgMode | identify | readParams | waitMs => cases h
  | _ => exact ⟨rfl, rfl⟩

/-- The checks of TRANSACT (41_framer.md R120). -/
theorem firstFault_of_transactFault {f : Frame} (hi : frameSent i = some f) (h : transactFault f s = some c) :
    FirstFault c i s := by
  obtain ⟨hn, hl⟩ := needsFocus_and_drivesLines_of_frameSent hi
  cases hp : s.focus with
  | none =>
    obtain rfl := Option.some.inj ((transactFault_none f s hp).symm.trans h)
    exact .noFocus hn hp
  | some p =>
    rw [transactFault_eq f s p hp] at h
    cases ho : s.settleOwed with
    | true =>
      obtain rfl : FaultCode.settle = c := by simpa [ho] using h
      exact .settle hl (focused_of_eq_some hp) (s.settleOwed_iff.mp ho)
    | false =>
      have hs := s.settleOwed_eq_false_iff.mp ho
      by_cases hz : (s.port p).framePhase = 0
      · cases hd : decodeFrame f with
        | error e =>
          obtain rfl : FaultCode.unlisted = c := by simpa [ho, hz, hd] using h
          exact .unlisted hi hp hs hz (by simp [hd])
        | ok k =>
          obtain ⟨hm, rfl⟩ : modeOk k (s.port p).mode = false ∧ FaultCode.notEnabled = c := by
            simpa [ho, hz, hd] using h
          exact .notEnabled hi hp hs hz hd hm
      · obtain rfl : FaultCode.misaligned = c := by simpa [ho, hz] using h
        exact .misaligned hi hp hs hz

/-- What sends a frame is the TRANSACT of it. -/
theorem exec_of_frameSent {f : Frame} (h : frameSent i = some f) (s : State) : exec i s = transactFrame f s := by
  cases i with
  | transact g =>
    obtain rfl := Option.some.inj h
    rfl
  | _ =>
    refine exec_eq_transact (f := f) ?_ s
    exact h

end

/-! ### What `exec` reports -/

/-- An operation raises the first fault that applies; where none applies it runs in full and reports none (60_exceptions.md
R218). -/
inductive Reports (i : Instr) (s : State) : Prop where
  | raised (c : FaultCode) (first : FirstFault c i s) (run : exec i s = .next (s.raise c))
  | completed (t : State) (clear : ∀ c, ¬ faultApplies i s c) (run : exec i s = .next t)
      (status : t.result.status ≠ .fault)

section
variable {i : Instr} {s : State} {c : FaultCode}

theorem reports_of_frameSent {f : Frame} (hi : frameSent i = some f) (s : State) : Reports i s := by
  have sends := exec_of_frameSent hi s
  rcases transactFrame_cases f s with ⟨c, hc, e⟩ | ⟨p, k, hp, hs, hz, hd, hm, e⟩
  · exact .raised c (firstFault_of_transactFault hi hc) (sends.trans e)
  · exact .completed _ (noFault_of_frame hi hp hs hz hd hm) (sends.trans e) nofun

theorem identifyRun_status (b : Port) (s : State) : (identifyRun b s).result.status ≠ .fault := by
  rw [(identifyRun_identified b s).result]
  cases identifyFound b s <;> nofun

theorem exec_reports (i : Instr) (s : State) : Reports i s := by
  cases i with
  | exchange out =>
    rcases execExchange_cases out s with ⟨c, hc, e⟩ | ⟨p, hp, hs, e⟩
    · exact .raised c (firstFault_of_exchangeFault rfl rfl hc) e
    · exact .completed _ (noFault_of_no_frame rfl nofun (focused_of_eq_some hp) hs) e nofun
  | enterProgMode =>
    rcases execEnter_cases s with ⟨c, hc, e⟩ | ⟨p, hp, hs, e⟩
    · exact .raised c (firstFault_of_exchangeFault rfl rfl hc) e
    · exact .completed _ (noFault_of_no_frame rfl nofun (focused_of_eq_some hp) hs) e nofun
  | focus b =>
    cases ho : s.settleOwed with
    | true =>
      exact .raised .settle (.settle rfl nofun (s.settleOwed_iff.mp ho)) (by simp [exec, execFocus, settleFault_eq, ho])
    | false =>
      have hs := s.settleOwed_eq_false_iff.mp ho
      exact .completed _ (noFault_of_no_frame rfl nofun nofun hs) (execFocus_run b s hs) nofun
  | identify b =>
    cases ho : s.settleOwed with
    | true =>
      exact .raised .settle (.settle rfl nofun (s.settleOwed_iff.mp ho)) (by simp [exec, execIdentify, settleFault_eq, ho])
    | false =>
      have hs := s.settleOwed_eq_false_iff.mp ho
      exact .completed _ (noFault_of_no_frame rfl nofun nofun hs) (execIdentify_run b s hs)
        (identifyRun_status b s)
  | readParams b =>
    cases hw : (s.port b).written with
    | false => exact .raised .unidentified (.unidentified hw) (by simp [exec, execReadParams, paramsFault_eq, hw])
    | true =>
      have clear : ∀ c, ¬ faultApplies (.readParams b) s c := by simp [faultApplies_readParams_iff, hw]
      exact .completed _ clear (execReadParams_run b s hw) nofun
  | waitMs n => exact .completed _ (fun _ => not_faultApplies_waitMs n) (exec_waitMs n s) nofun
  | _ => exact reports_of_frameSent rfl s

theorem exec_of_firstFault (h : FirstFault c i s) : exec i s = .next (s.raise c) := by
  cases exec_reports i s with
  | raised d first run =>
    obtain rfl := h.eq_of_least first.applies fun _ => first.le
    exact run
  | completed _ clear _ _ => exact absurd h.applies (clear c)

theorem FirstFault.faulted (h : FirstFault c i s) : ∃ t, exec i s = .next t ∧ Faulted c s t :=
  ⟨_, exec_of_firstFault h, s.raise_faulted c⟩

end

/-! ### The obligations -/

/-- Settles O19: the checks report the first fault that applies, and a reserved word is refused before any of them. -/
theorem faultPriority : Obligations.FaultPriority := by
  refine ⟨fun i s => ⟨fun c hc least => ?first, fun clear => ?none⟩, fun s w rest hb hr hk hw => ?reserved⟩
  case first =>
    exact FirstFault.faulted ⟨hc, fun d hlt hd => Nat.not_lt_of_le (least d hd) hlt⟩
  case none =>
    cases exec_reports i s with
    | raised c first _ => exact absurd first.applies (clear c)
    | completed t _ run status =>
      rcases exec_faults run with ⟨kept, -⟩ | ⟨c, -, failed⟩
      · exact ⟨t, run, status, kept⟩
      · exact absurd (congrArg Result.status failed) status
  case reserved =>
    exact ⟨_, (step_perform hb hr hk).trans (perform_reserved hw _), State.raise_faulted .badReq _⟩

/-- Settles O20: an operation that does not run in full did nothing but raise its fault. -/
theorem faultLeavesTheRest : Obligations.FaultLeavesTheRest := by
  intro i s t h hfault
  cases exec_reports i s with
  | raised c first run =>
    obtain rfl := Host.Outcome.next.inj (run.symm.trans h)
    exact ⟨c, first.applies, s.raise_faulted c⟩
  | completed u _ run status =>
    obtain rfl := Host.Outcome.next.inj (run.symm.trans h)
    exact absurd hfault status

/-- A frame that matches no row of opcode_table.json is unlisted (30_encoding.md R75). -/
theorem decodeFrame_ne_ok_of_no_row {f : Frame} (h : ∀ r ∈ frameRows, r.matches f.toNat = false) :
    ∀ c, decodeFrame f ≠ .ok c := by
  intro c hc
  have own_row := frameRows_of_frameOf (frameOf_of_decodeFrame hc)
  rw [List.filter_eq_nil_iff.mpr fun r hr => by simp [h r hr]] at own_row
  cases own_row

/-- Settles O21: each cause is the first fault that applies where the checks before it pass. -/
theorem faultCauses : Obligations.FaultCauses := by
  refine ⟨fun i s hi hf => ?noFocus, fun b s hw => FirstFault.faulted (.unidentified hw), fun i s q hq hi => ?settle,
    fun f s p hp hs hz hrows => ?unlisted, fun f s p c hp hs hz hd hmode => ?notEnabled⟩
  case noFocus =>
    have hn : needsFocus i = true := by rcases hi with ⟨_, rfl⟩ | ⟨_, rfl⟩ | rfl <;> rfl
    exact FirstFault.faulted (.noFocus hn hf)
  case settle =>
    have checked : drivesLines i = true ∧ (needsFocus i = true → s.focus ≠ none) := by
      rcases hi with ⟨_, rfl | rfl⟩ | ⟨hf, ⟨_, rfl⟩ | ⟨_, rfl⟩ | rfl⟩
      · exact ⟨rfl, nofun⟩
      · exact ⟨rfl, nofun⟩
      all_goals exact ⟨rfl, fun _ => hf⟩
    exact FirstFault.faulted (.settle checked.1 checked.2 ⟨q, hq⟩)
  case unlisted =>
    exact FirstFault.faulted (.unlisted rfl hp hs hz (decodeFrame_ne_ok_of_no_row hrows))
  case notEnabled =>
    have refused : modeOk c (s.port p).mode = false := by
      rw [← Bool.not_eq_true, modeOk_iff]
      tauto
    exact FirstFault.faulted (.notEnabled rfl hp hs hz hd refused)

end Sys2Proof.Machine
end

section
/-! SUPPORT. The state a reset of the block leaves, from power-on and of a running block (70_reset_and_hazards.md R230, R231). -/

namespace Sys2Proof.Machine

/-- The values R230 gives at power-on are those a reset of a running block gives, so what holds after the second holds after the
first. -/
theorem blockReset_reset : blockReset State.reset = State.reset := rfl

theorem blockReset_atReset (s : State) : AtReset (blockReset s) where
  focus := rfl
  lines q := by rw [blockReset_port]; exact ⟨rfl, rfl, rfl, rfl⟩
  busy := rfl
  written q := by rw [blockReset_port]; rfl
  mode q := by rw [blockReset_port]; rfl
  framePhase q := by rw [blockReset_port]; rfl
  settle q := by rw [blockReset_port]; rfl
  faults := rfl

theorem reset_atReset : AtReset State.reset := blockReset_reset ▸ blockReset_atReset State.reset

/-- A step in which a reset lands ends in the values of R230, whether the block waited or was in an operation (20_memory.md R56). -/
theorem step_atReset {s t : State} (h : step s = .next t) (due : s.resetDue ≠ none) : AtReset t := by
  rcases step_cases h with ⟨-, clear, -⟩ | ⟨-, -, rfl⟩ | ⟨_, _, -, -, clear, -⟩ | ⟨w, rest, k, -, -, -, rfl⟩
  · exact absurd clear due
  · exact blockReset_atReset s.passReset
  · exact absurd clear due
  · exact resetPartway_atReset k w { s.passReset with requests := rest }

/-- BUSY is 0 after reset, so any word is accepted (30_encoding.md R77). -/
theorem AtReset.step_present {s : State} (h : AtReset s) (w : HostWord) : ∃ t, step (s.present w) = .next t :=
  step_next (.inl h.busy)

/-- Settles O11: each kind of reset leaves FOCUS, BUSY, FAULTS and both ports at their reset values, and BUSY = 0 lets any word
be taken. -/
theorem resetState : Obligations.ResetState :=
  ⟨reset_atReset, blockReset_atReset, fun _ _ => step_atReset, reset_atReset.step_present,
    fun s => (blockReset_atReset s).step_present⟩

/-- Nothing but free levels is attached at power-on, so the memories are in form. -/
theorem reset_inv : State.reset.Inv :=
  blockReset_reset ▸ blockReset_inv fun q => by cases q <;> trivial

/-- Settles O56: a reset establishes every part of the invariant but the form of the targets' memories, which it leaves as they
were. -/
theorem resetMeetsInv : Obligations.ResetMeetsInv := ⟨reset_inv, fun _ hs => blockReset_inv hs.memories⟩

end Sys2Proof.Machine
end
